-- ==== Sys2Proof/Word.lean ====
section
/-!
DEFINITION. The word types of TSS-FE. Every register is 32 bits wide (spec 00_scope.md R19), memories
are byte memories (20_memory.md R80), and every value is unsigned (R26).
-/
namespace Sys2Proof

/-- A 32-bit register value or a 32-bit byte offset into SRC or DST (R19). -/
abbrev Word := BitVec 32

/-- One byte of SRC, DST, an opcode-table entry or a wire stream. -/
abbrev Byte := BitVec 8

end Sys2Proof
end

