-- ==== Sys2Proof/Config.lean ====
section
/-!
DEFINITION. What an instance of TSS-FE fixes (spec 00_scope.md section 4) and the free values: the
two quantities the spec says the model draws, and the bytes of the opcode table that nothing has written.
The source's constants R5 to R10, R13 and R18 are plain numbers. The parameters R12, R14, R15, R16 and R90 are the fields of `Config`, which the state carries,
so that a statement about every state is a statement about every instance.
-/
namespace Sys2Proof

/-- BLOCK_SIZE, in bytes (R5). -/
abbrev blockSize : Nat := 250

/-- RUN_LEN, in bytes (R6). -/
abbrev runLen : Nat := 249

/-- TXT_RUN, in hex characters (R7). -/
abbrev txtRun : Nat := 498

/-- TXT_THRESHOLD, in hex characters (R7). -/
abbrev txtThreshold : Nat := 500

/-- SCREEN_HEIGHT, also called STRIDE (R8). -/
abbrev screenHeight : Nat := 800

/-- OFFSET_DIGITS (R10). -/
abbrev offsetDigits : Nat := 6

/-- WIDTH_DIGITS (R10). -/
abbrev widthDigits : Nat := 4

/-- CHANNEL_DIGITS (R10). -/
abbrev channelDigits : Nat := 2

/-- ALPHA_OPAQUE (R18): the value 0xFF is the spec's own decision D21 (PRESUMED, log entry 9). -/
abbrev alphaOpaque : Byte := 0xFF#8

/-- OPT_COUNT, the number of opcode-table entries (R13). -/
abbrev optCount : Nat := 10

/-- OPC_MAX, the longest opcode byte sequence an entry holds (R13). -/
abbrev opcMax : Nat := 16

/-- SIZE_DIGITS takes one of the values 2, 4, 6 and 8 (R12). -/
inductive SizeDigits where
  | d2 | d4 | d6 | d8
deriving DecidableEq, Repr

/-- The number of hex digits a `SizeDigits` names. -/
def SizeDigits.toNat : SizeDigits → Nat
  | .d2 => 2
  | .d4 => 4
  | .d6 => 6
  | .d8 => 8

/-- UPD_WIRE (R15): DECODED is 0, ASCII is 1. -/
inductive UpdWire where
  | decoded | ascii
deriving DecidableEq, Repr

/-- UPD_CH_ORDER (R16): the six permutations (c0, c1, c2) of (0, 1, 2), each named by its digits. -/
inductive ChOrder where
  | c012 | c021 | c102 | c120 | c201 | c210
deriving DecidableEq, Repr

/-- The permutation as the list of the three source channels in the order they are emitted. -/
def ChOrder.channels : ChOrder → List Nat
  | .c012 => [0, 1, 2]
  | .c021 => [0, 2, 1]
  | .c102 => [1, 0, 2]
  | .c120 => [1, 2, 0]
  | .c201 => [2, 0, 1]
  | .c210 => [2, 1, 0]

/-- The parameters of one instance of TSS-FE and of its placement on a platform. No step changes them. -/
structure Config where
  /-- SRC_SIZE in bytes, 1 to 2^32 - 1 (R14). -/
  srcSize : Word
  /-- DST_SIZE in bytes, 1 to 2^32 - 1 (R14). -/
  dstSize : Word
  /-- SIZE_DIGITS (R12). -/
  sizeDigits : SizeDigits
  /-- UPD_WIRE (R15). -/
  updWire : UpdWire
  /-- UPD_CH_ORDER (R16). -/
  chOrder : ChOrder
  /-- REG_BASE, where the platform puts the register window (20_memory.md R90). -/
  regBase : Nat
  /-- SRC_BASE, where the platform puts SRC (R90). -/
  srcBase : Nat
  /-- DST_BASE, where the platform puts DST (R90). -/
  dstBase : Nat
deriving DecidableEq, Repr

/-- The instance that `State.reset` carries: the spec's default SIZE_DIGITS, UPD_WIRE and UPD_CH_ORDER
(R12, R15, R16), the sizes that 95_test_vectors.md takes unless it says otherwise, and bases of 0.
The sizes and the bases are a DESIGN CHOICE (log entry 1): the spec leaves them to the instance. -/
def Config.default : Config :=
  { srcSize := 4096#32, dstSize := 4096#32, sizeDigits := .d6, updWire := .decoded, chOrder := .c012,
    regBase := 0, srcBase := 0, dstBase := 0 }

/-- FREE VALUE (log entry 3): how many host accesses come between the n-th draw's START and its COMPLETE.
70_reset_and_hazards.md R291 and 93_implementation_defined.md ID5: any finite number. -/
opaque Config.freeLatency : Nat → Nat

/-- FREE VALUE (log entry 4): the number drawn when a running command is abandoned, before it is brought
into the range 0 to len(out) that R282 allows (ID4). -/
opaque Config.freePrefix : Nat → Nat

/-- FREE VALUE (log entry 15): the byte that OPT_BYTE[i][j], by its number 16i + j, holds
from power-on until it is first written. 10_state.md R68: the hardware "returns an unspecified value". -/
opaque Config.freeOptByte : Nat → Byte

end Sys2Proof
end

