-- ==== Sys2Proof/Machine/Bus.lean ====
section
/-!
DEFINITION. What the host can do to TSS-FE, as data: the bus transactions of spec 30_encoding.md R113 and
the requests that wait to be performed, in the host's program order (20_memory.md R93; DESIGN CHOICE, log entry 6).
-/
namespace Sys2Proof.Machine

/-- The width of a host access to the register window. Only `w32` is defined (20_memory.md R86). -/
inductive AccessWidth where
  | w8 | w16 | w32
deriving DecidableEq, Repr

/-- One host bus transaction (R113): the space and the direction are the constructor. Register offsets lie in
the 4 KiB window (10_state.md R32). SRC and DST accesses are single bytes (R84). Their offset is
a natural number, since no offset wraps (00_scope.md R25); it fits 32 bits (R19) in every transaction but those that a
multi-byte statement makes past 0xFFFFFFFF, which lie beyond the memory (DEDUCED, log entry 14). -/
inductive BusTxn where
  | regWrite (off : BitVec 12) (width : AccessWidth) (v : Word)
  | regRead (off : BitVec 12) (width : AccessWidth)
  | srcWrite (a : Nat) (b : Byte)
  | srcRead (a : Nat)
  | dstWrite (a : Nat) (b : Byte)
  | dstRead (a : Nat)
deriving DecidableEq, Repr

/-- A pending request of the world outside the block: one transaction, the host's polling loop `wait` (R112:
read STATUS until the BUSY bit of the value read is 0), or a power-on reset (70_reset_and_hazards.md R280). -/
inductive HostReq where
  | access (t : BusTxn)
  | wait
  | powerOn
deriving DecidableEq, Repr

end Sys2Proof.Machine
end

