-- ==== Sys2Proof/Machine/State.lean ====
section
/-!
DEFINITION. The state of TSS-FE as plain data (spec 10_state.md), its value after power-on reset
(70_reset_and_hazards.md R280), and the reasons a step can stop.
-/
namespace Sys2Proof.Machine

/-- A byte memory: the bytes that have been written, by rising address. An address that is not listed has
written mark 0 and reads as no value (10_state.md R68; DEDUCED, log entry 7). -/
abbrev Memory := List Host.Cell

/-- The model-only faults (60_exceptions.md R233), but for those of an unwritten OPT_BYTE, a register, which holds a free value
instead (log entry 15). Each is safe: the hardware goes on with an unspecified
value, and a claim about a run that meets one says nothing about that hardware. -/
inductive Fault where
  /-- Raised by a command that reads an SRC byte whose written mark is 0 (20_memory.md R87, ID1). Safe. -/
  | engineSrcUnwritten
  /-- Raised by a host read of an unwritten SRC byte (10_state.md R68, ID2). Safe. -/
  | hostSrcUnwritten
  /-- Raised by a host read of an unwritten DST byte while BUSY is 0 (10_state.md R68, ID2). Safe. -/
  | hostDstUnwritten
  /-- Raised by a host register access that is not an aligned 32-bit access (20_memory.md R86, ID3). Safe. -/
  | registerAccess
deriving DecidableEq, Repr

/-- Why a step is refused. -/
inductive Refusal where
  /-- Raised by an arm of `exec` whose command has no meaning yet. Safe. No arm of this model raises it. -/
  | notModelled (mnemonic : String)
deriving DecidableEq, Repr

/-- The error codes of STATUS.ERRCODE (60_exceptions.md R221 to R228). Codes 0x08 to 0xFF do not exist. -/
inductive ErrCode where
  | noError | badCommand | badDimension | badChannels | opcodeUnset | fieldOverflow | srcRange | dstOverflow
deriving DecidableEq, Repr

/-- The fields of STATUS (10_state.md R35). Its reserved bits hold nothing: they read 0 and ignore writes (R32). -/
structure Status where
  /-- Bit 0, from START until COMPLETE. -/
  busy : Bool
  /-- Bit 1, set by a command that completes without error. -/
  done : Bool
  /-- Bit 2, set by a command that completes with an error. -/
  err : Bool
  /-- Bit 3, the sticky host-hazard flag. -/
  hzd : Bool
  /-- Bits 15:8. -/
  errcode : ErrCode
deriving DecidableEq, Repr

/-- STATUS after either reset (R35, R281). -/
def Status.reset : Status := { busy := false, done := false, err := false, hzd := false, errcode := .noError }

/-- CMD and the operand registers (10_state.md R37 to R47). -/
structure OperandRegs where
  cmd : Word
  srcAddr : Word
  srcLen : Word
  plAddr : Word
  plLen : Word
  imgW : Word
  imgH : Word
  imgC : Word
  updX : Word
  updY : Word
  dstAddr : Word
deriving DecidableEq, Repr

/-- Every operand register and CMD are 0 after either reset (R37 to R47, R281). -/
def OperandRegs.reset : OperandRegs :=
  { cmd := 0#32, srcAddr := 0#32, srcLen := 0#32, plAddr := 0#32, plLen := 0#32, imgW := 0#32, imgH := 0#32,
    imgC := 0#32, updX := 0#32, updY := 0#32, dstAddr := 0#32 }

/-- OPT_BYTE[i][j] and its written mark (10_state.md R62, R68). -/
structure OptByte where
  byte : Byte
  written : Bool
deriving DecidableEq, Repr

/-- One entry of the opcode table (10_state.md R60, R62): LEN is 0 to 16. -/
structure OptEntry where
  len : Fin 17
  valid : Bool
  bytes : Vector OptByte 16
deriving DecidableEq, Repr

/-- The opcode table (10_state.md section 7). -/
abbrev OptTable := Vector OptEntry 10

/-- The opcode table after power-on reset: LEN 0, VALID 0, every byte unwritten (R280). The spec gives an
unwritten byte no value; the 0 stored under its cleared mark is a DESIGN CHOICE (log entry 2) that no read shows, since a read
of such a byte gives its free value (log entry 15). -/
def OptTable.reset : OptTable :=
  Vector.replicate 10
    { len := 0, valid := false, bytes := Vector.replicate 16 { byte := 0#8, written := false } }

/-- The hidden latch L (10_state.md R67): CMD, the operand registers and the opcode table as START found them. -/
structure Latch where
  ops : OperandRegs
  opt : OptTable
deriving DecidableEq, Repr

/-- The latch after power-on reset. R67 leaves it undefined and never read before the first START; zero and an
unloaded table are a DESIGN CHOICE (log entry 2). -/
def Latch.reset : Latch := { ops := OperandRegs.reset, opt := OptTable.reset }

/-- The state of TSS-FE. -/
structure State where
  /-- The instance constants, read through the CFG registers (10_state.md R51 to R59). -/
  cfg : Config
  /-- CTRL.IRQ_EN (R33), the only stored bit of CTRL. -/
  irqEn : Bool
  /-- STATUS (R35). -/
  status : Status
  /-- CMD and the operand registers (R37 to R47). -/
  ops : OperandRegs
  /-- The opcode table (R60 to R62). -/
  opt : OptTable
  /-- OUT_LEN (R48). -/
  outLen : Word
  /-- SIZE_FIELD (R49). -/
  sizeField : Word
  /-- AUX_COUNT (R50). -/
  auxCount : Word
  /-- The latch L (R67). -/
  latch : Latch
  /-- SRC with its written marks (20_memory.md R81, 10_state.md R68). -/
  src : Memory
  /-- DST with its written marks (20_memory.md R82, 10_state.md R68). -/
  dst : Memory
  /-- MODEL's own: the requests the host has yet to make, in its program order (20_memory.md R93). -/
  host : List HostReq
  /-- MODEL's own: what the last host read returned; none after a write (10_state.md R72). -/
  response : Option Word
  /-- MODEL's own: how many host accesses may still come before COMPLETE is taken (R291). -/
  delay : Nat
  /-- MODEL's own: the number of free values drawn so far. -/
  draws : Nat
deriving DecidableEq, Repr

/-- The machine right after power-on reset (70_reset_and_hazards.md R280). Its instance is log entry 1; the values of the latch
and of the model's own fields are DESIGN CHOICES (log entries 2 and 11). -/
def State.reset : State :=
  { cfg := Config.default, irqEn := false, status := Status.reset, ops := OperandRegs.reset, opt := OptTable.reset,
    outLen := 0#32, sizeField := 0#32, auxCount := 0#32, latch := Latch.reset, src := [], dst := [], host := [],
    response := none, delay := 0, draws := 0 }

end Sys2Proof.Machine
end

