-- ==== Sys2Proof/Machine/Flags.lean ====
section
/-!
DEFINITION. The flags of TSS-FE (spec 10_state.md R66): STATUS with its error codes, the write-1-to-clear rule,
the hazard flag, and the interrupt line.
-/
namespace Sys2Proof.Machine

/-- The value of an error code in STATUS bits 15:8 (60_exceptions.md R221 to R228). -/
def ErrCode.code : ErrCode → Byte
  | .noError => 0x00#8
  | .badCommand => 0x01#8
  | .badDimension => 0x02#8
  | .badChannels => 0x03#8
  | .opcodeUnset => 0x04#8
  | .fieldOverflow => 0x05#8
  | .srcRange => 0x06#8
  | .dstOverflow => 0x07#8

/-- Bit `n` of a register, as a word, when `b` is 1. -/
def flagBit (b : Bool) (n : Nat) : Word := if b then BitVec.ofNat 32 (2 ^ n) else 0#32

/-- The word a host read of STATUS returns (10_state.md R35, R72). -/
def Status.word (st : Status) : Word :=
  flagBit st.busy 0 ||| flagBit st.done 1 ||| flagBit st.err 2 ||| flagBit st.hzd 3
    ||| (st.errcode.code.setWidth 32 <<< 8)

/-- A host write to STATUS (10_state.md R36): DONE, ERR and HZD are cleared where `v` has a 1. -/
def Status.writeOneToClear (st : Status) (v : Word) : Status :=
  { st with
    done := st.done && !v.getLsbD 1
    err := st.err && !v.getLsbD 2
    hzd := st.hzd && !v.getLsbD 3 }

/-- START (10_state.md R70): DONE, ERR and ERRCODE are cleared, BUSY is set, HZD is unchanged. -/
def Status.started (st : Status) : Status :=
  { st with busy := true, done := false, err := false, errcode := .noError }

/-- The end of a command without error (60_exceptions.md R231). -/
def Status.completedOk (st : Status) : Status := { st with done := true, busy := false }

/-- The end of a command with an error (60_exceptions.md R230). -/
def Status.completedErr (st : Status) (code : ErrCode) : Status :=
  { st with errcode := code, err := true, busy := false }

/-- HZD becomes 1 (60_exceptions.md R232). -/
def State.setHzd (s : State) : State := { s with status := { s.status with hzd := true } }

/-- The level of the IRQ line (10_state.md R69, 60_exceptions.md R234). -/
def State.irq (s : State) : Bool := s.irqEn && (s.status.done || s.status.err)

end Sys2Proof.Machine
end

