-- ==== Sys2Proof/Machine/Ops.lean ====
section
/-!
DEFINITION. The operations the commands share: reading and writing the byte memories (spec 20_memory.md R87, R88),
and the two ends of a command, CommitErr and CommitOk (60_exceptions.md R230, R231). CommitErr is the analogue of
taking an exception; its return is the host's acknowledgement (R235).
-/
namespace Sys2Proof.Machine

/-- The canonical form of a memory: addresses strictly rising. -/
abbrev Memory.wf (m : Memory) : Prop := m.Pairwise fun c d => c.1 < d.1

/-- Every listed address lies below `size` (20_memory.md R81, R82). -/
abbrev Memory.within (m : Memory) (size : Nat) : Prop := ∀ c ∈ m, c.1 < size

/-- The byte at `a`; none when its written mark is 0 (10_state.md R68). -/
def Memory.read : Memory → Nat → Option Byte
  | [], _ => none
  | (k, v) :: m, a => if k = a then some v else Memory.read m a

/-- Stores one byte and sets its written mark (R68). -/
def Memory.write : Memory → Nat → Byte → Memory
  | [], a, b => [(a, b)]
  | (k, v) :: m, a, b =>
    if a < k then (a, b) :: (k, v) :: m
    else if a = k then (a, b) :: m
    else (k, v) :: Memory.write m a b

/-- The value of the OPT_BYTE numbered `k`: what was written or, under a cleared written mark, the unspecified value the register
has held since power-on (10_state.md R68; log entry 15). -/
def OptByte.value (b : OptByte) (k : Nat) : Byte := if b.written then b.byte else Config.freeOptByte k

/-- `MemRead(SRC, a, n)` (20_memory.md R87): none when a byte of it was never written. -/
def Memory.readBytes (m : Memory) (a : Nat) : Nat → Option (List Byte)
  | 0 => some []
  | n + 1 =>
    match m.read a with
    | none => none
    | some b =>
      match Memory.readBytes m (a + 1) n with
      | none => none
      | some bs => some (b :: bs)

/-- `MemWrite(DST, a, len(s), s)`, in increasing address order (20_memory.md R88). -/
def Memory.writeBytes (m : Memory) (a : Nat) : List Byte → Memory
  | [] => m
  | b :: bs => Memory.writeBytes (m.write a b) (a + 1) bs

/-- What executing a command yields (10_state.md R71): `Ok(out, size, aux)`, `Err(code)` or a model-only fault. -/
inductive Result where
  | ok (out : List Byte) (size aux : Nat)
  | err (code : ErrCode)
  | fault (f : Fault)
deriving DecidableEq, Repr

/-- `CommitErr(code)` (60_exceptions.md R230). -/
def commitErr (code : ErrCode) (s : State) : State :=
  { s with outLen := 0#32, sizeField := 0#32, auxCount := 0#32, status := s.status.completedErr code }

/-- The host's acknowledgement of a completion, the analogue of returning from an exception (60_exceptions.md
R235): a write of `v` to STATUS. Nothing is restored, because nothing was saved. -/
def acknowledge (v : Word) (s : State) : State := { s with status := s.status.writeOneToClear v }

/-- `CommitOk(out, size, aux)` (60_exceptions.md R231). -/
def commitOk (out : List Byte) (size aux : Nat) (s : State) : State :=
  { s with
    dst := s.dst.writeBytes s.latch.ops.dstAddr.toNat out
    outLen := BitVec.ofNat 32 out.length
    sizeField := BitVec.ofNat 32 size
    auxCount := BitVec.ofNat 32 aux
    status := s.status.completedOk }

/-- The commit of a command's result (10_state.md R71); a model-only fault stops the run (60_exceptions.md R233). -/
def commit (r : Result) (s : State) : Host.Outcome State Fault Refusal :=
  match r with
  | .ok out size aux => .next (commitOk out size aux s)
  | .err code => .next (commitErr code s)
  | .fault f => .fault f

end Sys2Proof.Machine
end

