-- ==== Sys2Proof/Machine/Streams.lean ====
section
/-!
DEFINITION. The sequence and hex primitives of spec 00_scope.md R22 and R23, over bytes and over hex text.
-/
namespace Sys2Proof.Machine

/-- One hex character, by its digit value (R23). -/
abbrev HexDigit := Fin 16

/-- Hex text (R22). -/
abbrev Text := List HexDigit

/-- `ceil_div(a, b)` for b > 0 (R22). -/
def ceilDiv (a b : Nat) : Nat := (a + b - 1) / b

/-- `chunks` with a bound on the number of chunks. -/
def chunksUpTo {α : Type} (r : Nat) : Nat → List α → List (List α)
  | 0, _ => []
  | _ + 1, [] => []
  | n + 1, x :: xs => (x :: xs).take r :: chunksUpTo r n ((x :: xs).drop r)

/-- `chunks(s, r)` for r > 0: runs of `r` elements, the last of 1 to `r` (R22). -/
def chunks {α : Type} (s : List α) (r : Nat) : List (List α) := chunksUpTo r s.length s

/-- `join(sep, cs)`: `sep` only between consecutive elements (R22). -/
def join {α : Type} (sep : List α) : List (List α) → List α
  | [] => []
  | [c] => c
  | c :: d :: cs => c ++ sep ++ join sep (d :: cs)

/-- The digit of value `v mod 16`. -/
def hexDigit (v : Nat) : HexDigit := Fin.ofNat 16 v

/-- `hexN(v)`: exactly `n` digits, most significant first (R23; defined there for v < 16^n, which the checks
of 41_image_encoder.md R183 ensure). -/
def hexN : Nat → Nat → Text
  | 0, _ => []
  | n + 1, v => hexN n (v / 16) ++ [hexDigit v]

/-- `unhex(t)` for text of even length: two digits a byte, the first one high (R23). -/
def unhex : Text → List Byte
  | a :: b :: t => BitVec.ofNat 8 (16 * a.val + b.val) :: unhex t
  | [_] => []
  | [] => []

/-- The ASCII code of a hex character, lower case (R23). -/
def asciiDigit (d : HexDigit) : Byte :=
  if d.val < 10 then BitVec.ofNat 8 (0x30 + d.val) else BitVec.ofNat 8 (0x61 + (d.val - 10))

/-- `ascii(t)` (R23). -/
def ascii (t : Text) : List Byte := t.map asciiDigit

/-- TRAILER, the hex text `ef69` (00_scope.md R9). -/
def trailer : Text := [0xe, 0xf, 0x6, 0x9]

/-- The concatenation of `f 0`, ..., `f (n - 1)`, when each of them is there: the loop
`for k in 0 .. n - 1: out <- out ++ f(k)` of the pseudocode. -/
def collect {α : Type} (f : Nat → Option (List α)) : Nat → Option (List α)
  | 0 => some []
  | n + 1 =>
    match collect f n with
    | none => none
    | some out =>
      match f n with
      | none => none
      | some x => some (out ++ x)

/-- The concatenation of `f x` over the elements of a list, when each of them is there. -/
def collectList {α β : Type} (f : β → Option (List α)) : List β → Option (List α)
  | [] => some []
  | x :: xs =>
    match f x with
    | none => none
    | some a =>
      match collectList f xs with
      | none => none
      | some out => some (a ++ out)

end Sys2Proof.Machine
end

