-- ==== Sys2Proof/Machine/Operands.lean ====
section
/-!
DEFINITION. The operand forms of the commands (spec 30_encoding.md R106): a latched register read as an unsigned
number, a range of SRC, the opcode bytes of a table entry (10_state.md R63), the pixel of an image buffer
(20_memory.md R89), and the ranges the checks are about (60_exceptions.md R227, R228).
-/
namespace Sys2Proof.Machine

/-- The range of `n` bytes at `a` lies in a memory of `size` bytes (R227, R228). A range of length 0 is checked
too (40_frame_codec.md R135). -/
abbrev inRange (a n : Nat) (size : Word) : Prop := a + n ≤ size.toNat

/-- The opcode bytes of entry `i`, `OpcodeBytes(i)` (10_state.md R63): the values of its first LEN bytes. -/
def OptTable.opcodeBytes (t : OptTable) (i : Fin 10) : List Byte :=
  ((t[i]).bytes.toList.zipIdx.take (t[i]).len.val).map fun b => b.1.value (16 * i.val + b.2)

/-- W, the width of the latched image in pixels (R42). -/
def Latch.width (l : Latch) : Nat := l.ops.imgW.toNat

/-- H, its height in rows (R43). -/
def Latch.height (l : Latch) : Nat := l.ops.imgH.toNat

/-- C, its bytes per pixel (R44). -/
def Latch.channelCount (l : Latch) : Nat := l.ops.imgC.toNat

/-- The length in bytes of the latched pixel buffer, W x H x C (20_memory.md R89). -/
def Latch.bufferLength (l : Latch) : Nat := l.width * l.height * l.channelCount

/-- `Pix(h, w, c)` of the row-major buffer (20_memory.md R89). -/
def pixel (l : Latch) (src : Memory) (h w c : Nat) : Option Byte :=
  src.read (l.ops.srcAddr.toNat + (h * l.width + w) * l.channelCount + c)

end Sys2Proof.Machine
end

