-- ==== Sys2Proof/Machine/Encoder.lean ====
section
/-!
DEFINITION. The image encoder commands ENC.FULL and ENC.UPDATE (spec 41_image_encoder.md).
-/
namespace Sys2Proof.Machine

/-- Pixel `k` of the buffer made 4-channel (R170): the alpha byte of a 3-channel pixel is ALPHA_OPAQUE. -/
def normalizedPixel (l : Latch) (src : Memory) (k : Nat) : Option (List Byte) :=
  if l.channelCount = 4 then src.readBytes (l.ops.srcAddr.toNat + 4 * k) 4
  else
    match src.readBytes (l.ops.srcAddr.toNat + 3 * k) 3 with
    | none => none
    | some rgb => some (rgb ++ [alphaOpaque])

/-- `Normalize4(B, W, H, C)` of the latched buffer (R170); none when a byte of it was never written. -/
def normalize4 (l : Latch) (src : Memory) : Option (List Byte) :=
  collect (normalizedPixel l src) (l.width * l.height)

/-- `FullStream(px)` (R171). -/
def fullStream (px : List Byte) : List Byte := join [0x00#8] (chunks px runLen)

/-- Neither image command runs on an empty image or on a pixel of other than 3 or 4 bytes (R174, R184). -/
def imageError (l : Latch) : Option ErrCode :=
  if l.width = 0 ∨ l.height = 0 then some .badDimension
  else if l.channelCount ≠ 3 ∧ l.channelCount ≠ 4 then some .badChannels
  else none

/-- The number of null separators in the full stream of `n` bytes (R174). -/
def fullSeparators (n : Nat) : Nat := ceilDiv n runLen - 1

/-- `ExecEncFull(L, SRC)` (R174). -/
def encFullResult (c : Config) (l : Latch) (src : Memory) : Result :=
  match imageError l with
  | some code => .err code
  | none =>
    if ¬ inRange l.ops.srcAddr.toNat l.bufferLength c.srcSize then .err .srcRange
    else
      let N := 4 * l.width * l.height
      let sep := fullSeparators N
      if ¬ inRange l.ops.dstAddr.toNat (N + sep) c.dstSize then .err .dstOverflow
      else
        match normalize4 l src with
        | none => .fault .engineSrcUnwritten
        | some px => .ok (fullStream px) 0 sep

/-- The row offset off(h) (R175). -/
def rowOffset (l : Latch) (h : Nat) : Nat := (l.ops.updX.toNat + h) * screenHeight + l.ops.updY.toNat

/-- The 2-digit field of channel `k` of the pixel in row `h`, column `w` (R177). -/
def channelText (l : Latch) (src : Memory) (h w k : Nat) : Option Text :=
  match pixel l src h w k with
  | none => none
  | some b => some (hexN channelDigits b.toNat)

/-- The three channel fields of one pixel, in the order UPD_CH_ORDER (R177). -/
def pixelText (c : Config) (l : Latch) (src : Memory) (h w : Nat) : Option Text :=
  collectList (channelText l src h w) c.chOrder.channels

/-- One row: its offset field, its width field, and its pixels (R175 to R177). -/
def rowText (c : Config) (l : Latch) (src : Memory) (h : Nat) : Option Text :=
  match collect (pixelText c l src h) l.width with
  | none => none
  | some px => some (hexN offsetDigits (rowOffset l h) ++ hexN widthDigits l.width ++ px)

/-- `UpdateText(L, SRC)` (R178); none when a byte it reads was never written. -/
def updateText (c : Config) (l : Latch) (src : Memory) : Option Text := collect (rowText c l src) l.height

/-- The length Lt of the update text, H x (10 + 6W) (R178). -/
def updateTextLength (l : Latch) : Nat := l.height * (10 + 6 * l.width)

/-- The size field, H x (5 + 3W) + 2 (R179). -/
def updateSize (l : Latch) : Nat := l.height * (5 + 3 * l.width) + 2

/-- The text form of a size field, `hexSD(size)` (R179). -/
def sizeText (c : Config) (size : Nat) : Text := hexN c.sizeDigits.toNat size

/-- The byte form of a size field: its SIZE_DIGITS / 2 bytes, most significant first (R179). It is what the host
puts at the head of an update-image frame's payload (40_frame_codec.md R141). -/
def sizeBytes (c : Config) (size : Nat) : List Byte := unhex (sizeText c size)

/-- `Sep(t)` (R180): separators only in a text longer than TXT_THRESHOLD, between runs of TXT_RUN characters. -/
def separateText (t : Text) : Text := if t.length > txtThreshold then join [0, 0] (chunks t txtRun) else t

/-- `sepT` for a text of `n` characters (R180). -/
def textSeparators (n : Nat) : Nat := if n > txtThreshold then ceilDiv n txtRun - 1 else 0

/-- The final text: the separated text and the trailer (R181). -/
def finalText (t : Text) : Text := separateText t ++ trailer

/-- `Wire(f)` (R182). -/
def wireBytes (c : Config) (f : Text) : List Byte :=
  match c.updWire with
  | .decoded => unhex f
  | .ascii => ascii f

/-- The output length T of ENC.UPDATE (R184). -/
def updateLength (c : Config) (l : Latch) : Nat :=
  let Lt := updateTextLength l
  match c.updWire with
  | .decoded => Lt / 2 + textSeparators Lt + 2
  | .ascii => Lt + 2 * textSeparators Lt + 4

/-- The field-width checks (R183): the width, the largest row offset, and the size field. -/
abbrev fieldsFit (c : Config) (l : Latch) : Prop :=
  l.width ≤ 0xFFFF ∧ (l.ops.updX.toNat + l.height - 1) * screenHeight + l.ops.updY.toNat ≤ 0xFFFFFF
    ∧ updateSize l ≤ 16 ^ c.sizeDigits.toNat - 1

/-- `ExecEncUpdate(L, SRC)` (R184). -/
def encUpdateResult (c : Config) (l : Latch) (src : Memory) : Result :=
  match imageError l with
  | some code => .err code
  | none =>
    if ¬ fieldsFit c l then .err .fieldOverflow
    else if ¬ inRange l.ops.srcAddr.toNat l.bufferLength c.srcSize then .err .srcRange
    else if ¬ inRange l.ops.dstAddr.toNat (updateLength c l) c.dstSize then .err .dstOverflow
    else
      match updateText c l src with
      | none => .fault .engineSrcUnwritten
      | some t => .ok (wireBytes c (finalText t)) (updateSize l) (textSeparators (updateTextLength l))

/-- ENC.FULL at its COMPLETE step (R174). -/
def execEncFull (s : State) : Host.Outcome State Fault Refusal := commit (encFullResult s.cfg s.latch s.src) s

/-- ENC.UPDATE at its COMPLETE step (R184). -/
def execEncUpdate (s : State) : Host.Outcome State Fault Refusal := commit (encUpdateResult s.cfg s.latch s.src) s

end Sys2Proof.Machine
end

