-- ==== Sys2Proof/Machine/Frame.lean ====
section
/-!
DEFINITION. The frame codec commands (spec 40_frame_codec.md): `Build`, FRAME.RAW, and the ten FRAME.<op> commands
over the one execution they share.
-/
namespace Sys2Proof.Machine

/-- The length T of the frame of `n` bytes: the next multiple of BLOCK_SIZE (R130). -/
def frameLength (n : Nat) : Nat := blockSize * ceilDiv n blockSize

/-- `Build(op, pl, pad)` (R130). -/
def build (op pl : List Byte) (pad : Byte) : List Byte :=
  let s := op ++ pl
  s ++ List.replicate (frameLength s.length - s.length) pad

/-- The last check of a frame command and its result (R135, R136): `n` is the length of the opcode and of the payload. -/
def frameResult (c : Config) (l : Latch) (src : Memory) (pad : Byte) (n : Nat) (op : Option (List Byte)) : Result :=
  let T := frameLength n
  if ¬ inRange l.ops.dstAddr.toNat T c.dstSize then .err .dstOverflow
  else
    match op with
    | none => .fault .engineSrcUnwritten
    | some op =>
      match src.readBytes l.ops.plAddr.toNat l.ops.plLen.toNat with
      | none => .fault .engineSrcUnwritten
      | some pl => .ok (build op pl pad) 0 (T - n)

/-- `ExecFrameRaw(pad, L, SRC)` (R135). -/
def frameRawResult (pad : Byte) (c : Config) (l : Latch) (src : Memory) : Result :=
  if ¬ inRange l.ops.srcAddr.toNat l.ops.srcLen.toNat c.srcSize then .err .srcRange
  else if ¬ inRange l.ops.plAddr.toNat l.ops.plLen.toNat c.srcSize then .err .srcRange
  else
    frameResult c l src pad (l.ops.srcLen.toNat + l.ops.plLen.toNat)
      (src.readBytes l.ops.srcAddr.toNat l.ops.srcLen.toNat)

/-- `ExecFrameOp(i, pad, L, SRC)` (R136). An opcode byte that was never written is a free value (log entry 15). -/
def frameOpResult (i : Fin 10) (pad : Byte) (c : Config) (l : Latch) (src : Memory) : Result :=
  let e := l.opt[i]
  if e.valid = false then .err .opcodeUnset
  else if ¬ inRange l.ops.plAddr.toNat l.ops.plLen.toNat c.srcSize then .err .srcRange
  else frameResult c l src pad (e.len.val + l.ops.plLen.toNat) (some (l.opt.opcodeBytes i))

/-- FRAME.RAW at its COMPLETE step (R135). -/
def execFrameRaw (pad : Byte) (s : State) : Host.Outcome State Fault Refusal :=
  commit (frameRawResult pad s.cfg s.latch s.src) s

/-- FRAME.GET_DEVICE_INFO (R137). -/
def execFrameGetDeviceInfo (pad : Byte) (s : State) : Host.Outcome State Fault Refusal :=
  commit (frameOpResult 0 pad s.cfg s.latch s.src) s

/-- FRAME.STOP_VIDEO (R138). -/
def execFrameStopVideo (pad : Byte) (s : State) : Host.Outcome State Fault Refusal :=
  commit (frameOpResult 1 pad s.cfg s.latch s.src) s

/-- FRAME.DISPLAY_FULL_IMAGE (R139). -/
def execFrameDisplayFullImage (pad : Byte) (s : State) : Host.Outcome State Fault Refusal :=
  commit (frameOpResult 2 pad s.cfg s.latch s.src) s

/-- FRAME.QUERY_RENDER_STATUS (R140). -/
def execFrameQueryRenderStatus (pad : Byte) (s : State) : Host.Outcome State Fault Refusal :=
  commit (frameOpResult 3 pad s.cfg s.latch s.src) s

/-- FRAME.UPDATE_IMAGE_REGION (R141): the host has put the size field into the payload. -/
def execFrameUpdateImageRegion (pad : Byte) (s : State) : Host.Outcome State Fault Refusal :=
  commit (frameOpResult 4 pad s.cfg s.latch s.src) s

/-- FRAME.STOP_MEDIA (R142). -/
def execFrameStopMedia (pad : Byte) (s : State) : Host.Outcome State Fault Refusal :=
  commit (frameOpResult 5 pad s.cfg s.latch s.src) s

/-- FRAME.EXIT (R143). -/
def execFrameExit (pad : Byte) (s : State) : Host.Outcome State Fault Refusal :=
  commit (frameOpResult 6 pad s.cfg s.latch s.src) s

/-- FRAME.RESTART (R144). -/
def execFrameRestart (pad : Byte) (s : State) : Host.Outcome State Fault Refusal :=
  commit (frameOpResult 7 pad s.cfg s.latch s.src) s

/-- FRAME.PRE_IMAGE_MARKER (R145). -/
def execFramePreImageMarker (pad : Byte) (s : State) : Host.Outcome State Fault Refusal :=
  commit (frameOpResult 8 pad s.cfg s.latch s.src) s

/-- FRAME.POST_IMAGE_MARKER (R146). -/
def execFramePostImageMarker (pad : Byte) (s : State) : Host.Outcome State Fault Refusal :=
  commit (frameOpResult 9 pad s.cfg s.latch s.src) s

end Sys2Proof.Machine
end

