-- ==== Sys2Proof/Syntax.lean ====
section
/-!
DEFINITION. The command set of TSS-FE: one constructor for each of the 13 rows of opcode_table.json. A
command has no operand field other than OPSEL, which the constructor names, and PAD (spec 30_encoding.md
R106); every other operand is a latched register.
-/
namespace Sys2Proof

/-- The 13 commands (30_encoding.md R101, R102). `pad` is the PAD byte of the command word (R103). -/
inductive Instr where
  | frameRaw (pad : Byte)
  | frameGetDeviceInfo (pad : Byte)
  | frameStopVideo (pad : Byte)
  | frameDisplayFullImage (pad : Byte)
  | frameQueryRenderStatus (pad : Byte)
  | frameUpdateImageRegion (pad : Byte)
  | frameStopMedia (pad : Byte)
  | frameExit (pad : Byte)
  | frameRestart (pad : Byte)
  | framePreImageMarker (pad : Byte)
  | framePostImageMarker (pad : Byte)
  | encFull
  | encUpdate
deriving DecidableEq, Repr

end Sys2Proof
end

