-- ==== Sys2Proof/Machine/Dispatch.lean ====
section
/-!
DEFINITION. `exec`: one arm per command, each a direct call of its meaning at the COMPLETE step (spec 10_state.md R71).
-/
namespace Sys2Proof.Machine

/-- What the command `i` does to the state `s` in which it is running: its COMPLETE step (R71). -/
def exec (i : Instr) (s : State) : Host.Outcome State Fault Refusal :=
  match i with
  | .frameRaw pad => Sys2Proof.Machine.execFrameRaw pad s
  | .frameGetDeviceInfo pad => Sys2Proof.Machine.execFrameGetDeviceInfo pad s
  | .frameStopVideo pad => Sys2Proof.Machine.execFrameStopVideo pad s
  | .frameDisplayFullImage pad => Sys2Proof.Machine.execFrameDisplayFullImage pad s
  | .frameQueryRenderStatus pad => Sys2Proof.Machine.execFrameQueryRenderStatus pad s
  | .frameUpdateImageRegion pad => Sys2Proof.Machine.execFrameUpdateImageRegion pad s
  | .frameStopMedia pad => Sys2Proof.Machine.execFrameStopMedia pad s
  | .frameExit pad => Sys2Proof.Machine.execFrameExit pad s
  | .frameRestart pad => Sys2Proof.Machine.execFrameRestart pad s
  | .framePreImageMarker pad => Sys2Proof.Machine.execFramePreImageMarker pad s
  | .framePostImageMarker pad => Sys2Proof.Machine.execFramePostImageMarker pad s
  | .encFull => Sys2Proof.Machine.execEncFull s
  | .encUpdate => Sys2Proof.Machine.execEncUpdate s

end Sys2Proof.Machine
end

