-- ==== Sys2Proof/Decode.lean ====
section
/-!
DEFINITION. Decoding of the command word CMD32 (spec 30_encoding.md R100 to R105) and, after it, the encoder
(R111). A command is one 32-bit word, read from the latched CMD register.
-/
namespace Sys2Proof

/-- Why a word is no command (30_encoding.md R107). All of them end in BAD_COMMAND (60_exceptions.md R222). -/
inductive Illegal where
  /-- Bits 31:16 are not 0. -/
  | reservedBits
  /-- OP is 0x0 or 0x5 to 0xF. -/
  | reservedOp
  /-- OPSEL is not 0 and OP is not 0x2. -/
  | opselNotAllowed
  /-- OP is 0x2 and OPSEL is 10 to 15. -/
  | opselReserved
  /-- PAD is not 0 and OP is 0x3 or 0x4. -/
  | padNotAllowed
deriving DecidableEq, Repr

/-- OP, bits 3:0 (R100). -/
def cmdOp (w : Word) : BitVec 4 := w.extractLsb' 0 4

/-- OPSEL, bits 7:4 (R100). -/
def cmdOpsel (w : Word) : BitVec 4 := w.extractLsb' 4 4

/-- PAD, bits 15:8 (R100). -/
def cmdPad (w : Word) : Byte := w.extractLsb' 8 8

/-- RSV, bits 31:16 (R100). -/
def cmdRsv (w : Word) : BitVec 16 := w.extractLsb' 16 16

/-- The FRAME.<op> command of opcode-table entry `sel` (R102); entries 10 to 15 are reserved. -/
def frameOfEntry (sel : BitVec 4) (pad : Byte) : Except Illegal Instr :=
  match sel.toNat with
  | 0 => .ok (.frameGetDeviceInfo pad)
  | 1 => .ok (.frameStopVideo pad)
  | 2 => .ok (.frameDisplayFullImage pad)
  | 3 => .ok (.frameQueryRenderStatus pad)
  | 4 => .ok (.frameUpdateImageRegion pad)
  | 5 => .ok (.frameStopMedia pad)
  | 6 => .ok (.frameExit pad)
  | 7 => .ok (.frameRestart pad)
  | 8 => .ok (.framePreImageMarker pad)
  | 9 => .ok (.framePostImageMarker pad)
  | _ => .error .opselReserved

/-- An encoder command allows neither OPSEL nor PAD (R104). -/
def encoderCommand (sel : BitVec 4) (pad : Byte) (i : Instr) : Except Illegal Instr :=
  if sel ≠ 0#4 then .error .opselNotAllowed
  else if pad ≠ 0#8 then .error .padNotAllowed
  else .ok i

/-- `Decode(w)`, total on all 2^32 words (R105). -/
def decode (w : Word) : Except Illegal Instr :=
  if cmdRsv w ≠ 0#16 then .error .reservedBits
  else
    match (cmdOp w).toNat with
    | 1 => if cmdOpsel w = 0#4 then .ok (.frameRaw (cmdPad w)) else .error .opselNotAllowed
    | 2 => frameOfEntry (cmdOpsel w) (cmdPad w)
    | 3 => encoderCommand (cmdOpsel w) (cmdPad w) .encFull
    | 4 => encoderCommand (cmdOpsel w) (cmdPad w) .encUpdate
    | _ => .error .reservedOp

/-- `(p << 8) | low` (R111). -/
def padWord (pad : Byte) (low : Word) : Word := (pad.setWidth 32 <<< 8) ||| low

/-- The CMD word a command assembles to (R111; opcode_table.json). -/
def encode : Instr → Word
  | .frameRaw pad => padWord pad 0x00000001#32
  | .frameGetDeviceInfo pad => padWord pad 0x00000002#32
  | .frameStopVideo pad => padWord pad 0x00000012#32
  | .frameDisplayFullImage pad => padWord pad 0x00000022#32
  | .frameQueryRenderStatus pad => padWord pad 0x00000032#32
  | .frameUpdateImageRegion pad => padWord pad 0x00000042#32
  | .frameStopMedia pad => padWord pad 0x00000052#32
  | .frameExit pad => padWord pad 0x00000062#32
  | .frameRestart pad => padWord pad 0x00000072#32
  | .framePreImageMarker pad => padWord pad 0x00000082#32
  | .framePostImageMarker pad => padWord pad 0x00000092#32
  | .encFull => 0x00000003#32
  | .encUpdate => 0x00000004#32

/-- The 32-bit command word whose low `nbits` bits are those of `w` and whose other bits are 0. -/
def tableWord (nbits w : Nat) : Word := BitVec.ofNat 32 (w % 2 ^ nbits)

/-- The instruction the decoder reads from a word numbered as opcode_table.json numbers its bits. -/
def decodeTableWord (nbits w : Nat) : Option Instr :=
  match decode (tableWord nbits w) with
  | .ok i => some i
  | .error _ => none

end Sys2Proof
end

