-- ==== Sys2Proof/Machine/Execute.lean ====
section
/-!
DEFINITION. `Execute(cmd, L, SRC)` of spec 10_state.md R71: the result of each command without its commit. A soft
reset while a command runs asks for it too (70_reset_and_hazards.md R282).
-/
namespace Sys2Proof.Machine

/-- The result of a command from the instance, the latch and SRC alone (R71). -/
def execute (i : Instr) (c : Config) (l : Latch) (src : Memory) : Result :=
  match i with
  | .frameRaw pad => frameRawResult pad c l src
  | .frameGetDeviceInfo pad => frameOpResult 0 pad c l src
  | .frameStopVideo pad => frameOpResult 1 pad c l src
  | .frameDisplayFullImage pad => frameOpResult 2 pad c l src
  | .frameQueryRenderStatus pad => frameOpResult 3 pad c l src
  | .frameUpdateImageRegion pad => frameOpResult 4 pad c l src
  | .frameStopMedia pad => frameOpResult 5 pad c l src
  | .frameExit pad => frameOpResult 6 pad c l src
  | .frameRestart pad => frameOpResult 7 pad c l src
  | .framePreImageMarker pad => frameOpResult 8 pad c l src
  | .framePostImageMarker pad => frameOpResult 9 pad c l src
  | .encFull => encFullResult c l src
  | .encUpdate => encUpdateResult c l src

/-- The command in the latch (R71). -/
def Latch.command (l : Latch) : Except Illegal Instr := decode l.ops.cmd

/-- The result that the COMPLETE step of the running command computes (R71): BAD_COMMAND when its word does not
decode (60_exceptions.md R222). -/
def latchedResult (c : Config) (l : Latch) (src : Memory) : Result :=
  match l.command with
  | .error _ => .err .badCommand
  | .ok i => execute i c l src

end Sys2Proof.Machine
end

