-- ==== Sys2Proof/Machine/Registers.lean ====
section
/-!
DEFINITION. The register window (spec 10_state.md R32): the registers by name, their offsets, and what a host read
of each returns (R72).
-/
namespace Sys2Proof.Machine

/-- The named registers of the window (R32). -/
inductive Reg where
  | ctrl | status | cmd
  | srcAddr | srcLen | plAddr | plLen | imgW | imgH | imgC | updX | updY | dstAddr
  | outLen | sizeField | auxCount
  | cfgBlock | cfgRun | cfgStride | cfgTxt | cfgSizes | cfgSrcSize | cfgDstSize | cfgChord | cfgTrailer
  | optLen (i : Fin 10)
  | optByte (i : Fin 10) (j : Fin 16)
deriving DecidableEq, Repr

/-- The offset of a register in the window (R32, R60, R62). -/
def Reg.offset : Reg → BitVec 12
  | .ctrl => 0x000#12
  | .status => 0x004#12
  | .cmd => 0x008#12
  | .srcAddr => 0x00C#12
  | .srcLen => 0x010#12
  | .plAddr => 0x014#12
  | .plLen => 0x018#12
  | .imgW => 0x01C#12
  | .imgH => 0x020#12
  | .imgC => 0x024#12
  | .updX => 0x028#12
  | .updY => 0x02C#12
  | .dstAddr => 0x030#12
  | .outLen => 0x034#12
  | .sizeField => 0x038#12
  | .auxCount => 0x03C#12
  | .cfgBlock => 0x040#12
  | .cfgRun => 0x044#12
  | .cfgStride => 0x048#12
  | .cfgTxt => 0x04C#12
  | .cfgSizes => 0x050#12
  | .cfgSrcSize => 0x054#12
  | .cfgDstSize => 0x058#12
  | .cfgChord => 0x05C#12
  | .cfgTrailer => 0x060#12
  | .optLen i => BitVec.ofNat 12 (0x100 + 4 * i.val)
  | .optByte i j => BitVec.ofNat 12 (0x200 + 4 * (16 * i.val + j.val))

/-- The registers at the offsets 0x000, 0x004, ..., 0x060 (R32), by offset / 4. -/
def fixedReg : Nat → Option Reg
  | 0 => some .ctrl
  | 1 => some .status
  | 2 => some .cmd
  | 3 => some .srcAddr
  | 4 => some .srcLen
  | 5 => some .plAddr
  | 6 => some .plLen
  | 7 => some .imgW
  | 8 => some .imgH
  | 9 => some .imgC
  | 10 => some .updX
  | 11 => some .updY
  | 12 => some .dstAddr
  | 13 => some .outLen
  | 14 => some .sizeField
  | 15 => some .auxCount
  | 16 => some .cfgBlock
  | 17 => some .cfgRun
  | 18 => some .cfgStride
  | 19 => some .cfgTxt
  | 20 => some .cfgSizes
  | 21 => some .cfgSrcSize
  | 22 => some .cfgDstSize
  | 23 => some .cfgChord
  | 24 => some .cfgTrailer
  | _ => none

/-- The register at an aligned offset; none at the offsets that the map of R32 does not name. -/
def regAt (off : BitVec 12) : Option Reg :=
  let n := off.toNat / 4
  if n < 0x40 then fixedReg n
  else if h : 0x40 ≤ n ∧ n < 0x4A then some (.optLen ⟨n - 0x40, by omega⟩)
  else if h : 0x80 ≤ n ∧ n < 0x120 then
    some (.optByte ⟨(n - 0x80) / 16, by omega⟩ ⟨(n - 0x80) % 16, by omega⟩)
  else none

/-- What CTRL reads as (R33): START and SOFT_RESET are write-only. -/
def State.ctrlWord (s : State) : Word := flagBit s.irqEn 2

/-- CFG_TXT (R54). -/
def cfgTxtWord : Word := BitVec.ofNat 32 (txtRun + txtThreshold * 2 ^ 16)

/-- The value of UPD_WIRE in CFG_SIZES (R15, R55). -/
def wireCode : UpdWire → Nat
  | .decoded => 0
  | .ascii => 1

/-- CFG_SIZES (R55). -/
def cfgSizesWord (c : Config) : Word :=
  BitVec.ofNat 32 (c.sizeDigits.toNat + opcMax * 2 ^ 8 + optCount * 2 ^ 16 + wireCode c.updWire * 2 ^ 24)

/-- The channel order as the digits of CFG_CHORD: c0 in bits 1:0, c1 in bits 3:2, c2 in bits 5:4 (R58). -/
def chordCode : List Nat → Nat
  | [] => 0
  | ch :: chs => ch + 4 * chordCode chs

/-- CFG_CHORD (R58). -/
def cfgChordWord (c : Config) : Word := BitVec.ofNat 32 (chordCode c.chOrder.channels)

/-- OPT_LEN[i] (R60): LEN in bits 4:0, VALID in bit 31. -/
def OptEntry.lenWord (e : OptEntry) : Word := BitVec.ofNat 32 e.len.val ||| flagBit e.valid 31

/-- What a host read of a register returns (R72). An OPT_BYTE that was never written returns a free value (R68; log entry 15). -/
def readReg (s : State) : Reg → Word
  | .ctrl => s.ctrlWord
  | .status => s.status.word
  | .cmd => s.ops.cmd
  | .srcAddr => s.ops.srcAddr
  | .srcLen => s.ops.srcLen
  | .plAddr => s.ops.plAddr
  | .plLen => s.ops.plLen
  | .imgW => s.ops.imgW
  | .imgH => s.ops.imgH
  | .imgC => s.ops.imgC
  | .updX => s.ops.updX
  | .updY => s.ops.updY
  | .dstAddr => s.ops.dstAddr
  | .outLen => s.outLen
  | .sizeField => s.sizeField
  | .auxCount => s.auxCount
  | .cfgBlock => (BitVec.ofNat 32 blockSize)
  | .cfgRun => (BitVec.ofNat 32 runLen)
  | .cfgStride => (BitVec.ofNat 32 screenHeight)
  | .cfgTxt => cfgTxtWord
  | .cfgSizes => (cfgSizesWord s.cfg)
  | .cfgSrcSize => s.cfg.srcSize
  | .cfgDstSize => s.cfg.dstSize
  | .cfgChord => (cfgChordWord s.cfg)
  | .cfgTrailer => 0x0000EF69#32
  | .optLen i => (s.opt[i]).lenWord
  | .optByte i j => ((s.opt[i]).bytes[j].value (16 * i.val + j.val)).setWidth 32

end Sys2Proof.Machine
end

