-- ==== Sys2Proof/WellFormed.lean ====
section
/-!
DEFINITION. Which terms the spec admits. A command is well-formed by its type: PAD is any byte and OPSEL is
fixed by the constructor (spec 30_encoding.md R103, R106). The checks are those on an instance's sizes
(00_scope.md R14) and on a host access (20_memory.md R86, 00_scope.md R19).
-/
namespace Sys2Proof

/-- Every command term is a command: "any PAD byte 0x00 to 0xFF is legal" (40_frame_codec.md R135). -/
def Instr.wellFormed : Instr → Bool
  | .frameRaw _ => true
  | .frameGetDeviceInfo _ => true
  | .frameStopVideo _ => true
  | .frameDisplayFullImage _ => true
  | .frameQueryRenderStatus _ => true
  | .frameUpdateImageRegion _ => true
  | .frameStopMedia _ => true
  | .frameExit _ => true
  | .frameRestart _ => true
  | .framePreImageMarker _ => true
  | .framePostImageMarker _ => true
  | .encFull => true
  | .encUpdate => true

/-- SRC_SIZE and DST_SIZE lie in [1, 2^32 - 1] (R14). -/
def Config.wellFormed (c : Config) : Bool :=
  decide (c.srcSize ≠ 0#32) && decide (c.dstSize ≠ 0#32)

namespace Machine

/-- The register access is a 32-bit access at an offset that is a multiple of 4 (R86). -/
def registerAccessDefined (off : BitVec 12) (width : AccessWidth) : Bool :=
  decide (width = .w32) && decide (off.toNat % 4 = 0)

/-- The transaction is one that the spec admits: a defined register access (R86), or a byte access at a 32-bit offset
(00_scope.md R19). -/
def BusTxn.wellFormed : BusTxn → Bool
  | .regWrite off width _ => registerAccessDefined off width
  | .regRead off width => registerAccessDefined off width
  | .srcWrite a _ => decide (a < 2 ^ 32)
  | .srcRead a => decide (a < 2 ^ 32)
  | .dstWrite a _ => decide (a < 2 ^ 32)
  | .dstRead a => decide (a < 2 ^ 32)

end Machine

end Sys2Proof
end

