-- ==== Sys2Proof/Machine/HostPort.lean ====
section
/-!
DEFINITION. What a host access does: START (spec 10_state.md R70), both resets (70_reset_and_hazards.md R280 to
R282), the register writes (10_state.md R34, R36, R61, R62), the byte accesses to SRC and DST (20_memory.md R81 to
R83), and the hazards of an access while a command runs (70_reset_and_hazards.md R285 to R289).
-/
namespace Sys2Proof.Machine

/-- START with `d` host accesses allowed before COMPLETE (10_state.md R67, R70). -/
def startAfter (d : Nat) (s : State) : State :=
  { s with status := s.status.started, latch := { ops := s.ops, opt := s.opt }, delay := d }

/-- START (R70). When COMPLETE comes is a free value (70_reset_and_hazards.md R291; log entry 3). -/
def start (s : State) : State :=
  { startAfter (Config.freeLatency s.draws) s with draws := s.draws + 1 }

/-- The first `k` bytes of a command's output reach DST, each with its written mark (R282). -/
def writePrefix (out : List Byte) (k : Nat) (s : State) : State :=
  { s with dst := s.dst.writeBytes s.latch.ops.dstAddr.toNat (out.take k) }

/-- `AbortRunning()` (70_reset_and_hazards.md R282): k is drawn from 0 to len(out) (log entry 4). -/
def abortRunning (s : State) : State :=
  match latchedResult s.cfg s.latch s.src with
  | .ok out _ _ =>
    { writePrefix out (Config.freePrefix s.draws % (out.length + 1)) s with draws := s.draws + 1 }
  | .err _ => s
  | .fault _ => s

/-- The registers that a soft reset clears (R281): CTRL, STATUS, CMD, the operand and the result registers. -/
def clearRegisters (s : State) : State :=
  { s with irqEn := false, status := Status.reset, ops := OperandRegs.reset, outLen := 0#32, sizeField := 0#32,
           auxCount := 0#32 }

/-- `SoftReset()` (R281). -/
def softReset (s : State) : State := clearRegisters (if s.status.busy then abortRunning s else s)

/-- Power-on reset (R280). The instance constants stay; the pending requests and the count of draws are not the
block's (DESIGN CHOICE, log entry 10). -/
def powerOnReset (s : State) : State :=
  { State.reset with cfg := s.cfg, host := s.host, draws := s.draws }

/-- CTRL.IRQ_EN becomes `b` (10_state.md R33). -/
def State.withIrqEn (s : State) (b : Bool) : State := { s with irqEn := b }

/-- A host write of `v` to CTRL (10_state.md R34). -/
def writeCtrl (v : Word) (s : State) : State :=
  if v.getLsbD 1 then softReset s
  else
    if v.getLsbD 0 then
      if s.status.busy then (s.withIrqEn (v.getLsbD 2)).setHzd else start (s.withIrqEn (v.getLsbD 2))
    else s.withIrqEn (v.getLsbD 2)

/-- Replaces CMD and the operand registers. -/
def State.withOps (s : State) (ops : OperandRegs) : State := { s with ops := ops }

/-- Replaces entry `i` of the opcode table. -/
def State.withEntry (s : State) (i : Fin 10) (e : OptEntry) : State := { s with opt := s.opt.set i e }

/-- A host write of `v` to OPT_LEN[i] (R61): ignored entirely when v[4:0] > 16. -/
def writeOptLen (i : Fin 10) (v : Word) (s : State) : State :=
  if h : (v.extractLsb' 0 5).toNat ≤ 16 then
    s.withEntry i { s.opt[i] with len := ⟨(v.extractLsb' 0 5).toNat, by omega⟩, valid := true }
  else s

/-- A host write of `v` to OPT_BYTE[i][j] (R62): bits 7:0 are stored and the written mark is set (R68). -/
def writeOptByte (i : Fin 10) (j : Fin 16) (v : Word) (s : State) : State :=
  s.withEntry i
    { s.opt[i] with bytes := (s.opt[i]).bytes.set j { byte := v.extractLsb' 0 8, written := true } }

/-- A host write of `v` to a register (R32 to R62). It is the same while a command runs (70_reset_and_hazards.md
R288): the running command reads only the latch. -/
def writeReg (v : Word) (s : State) : Reg → State
  | .ctrl => writeCtrl v s
  | .status => acknowledge v s
  | .cmd => s.withOps { s.ops with cmd := v }
  | .srcAddr => s.withOps { s.ops with srcAddr := v }
  | .srcLen => s.withOps { s.ops with srcLen := v }
  | .plAddr => s.withOps { s.ops with plAddr := v }
  | .plLen => s.withOps { s.ops with plLen := v }
  | .imgW => s.withOps { s.ops with imgW := v }
  | .imgH => s.withOps { s.ops with imgH := v }
  | .imgC => s.withOps { s.ops with imgC := v }
  | .updX => s.withOps { s.ops with updX := v }
  | .updY => s.withOps { s.ops with updY := v }
  | .dstAddr => s.withOps { s.ops with dstAddr := v }
  | .outLen => s
  | .sizeField => s
  | .auxCount => s
  | .cfgBlock => s
  | .cfgRun => s
  | .cfgStride => s
  | .cfgTxt => s
  | .cfgSizes => s
  | .cfgSrcSize => s
  | .cfgDstSize => s
  | .cfgChord => s
  | .cfgTrailer => s
  | .optLen i => writeOptLen i v s
  | .optByte i j => writeOptByte i j v s

/-- What the host access returned: a word for a read, nothing for a write. -/
def State.respond (s : State) (r : Option Word) : State := { s with response := r }

/-- A host write to the register window; an offset that the map does not name ignores it (10_state.md R32). -/
def hostRegWrite (off : BitVec 12) (width : AccessWidth) (v : Word) (s : State) :
    Host.Outcome State Fault Refusal :=
  if registerAccessDefined off width then
    match regAt off with
    | none => .next (s.respond none)
    | some r => .next ((writeReg v s r).respond none)
  else .fault .registerAccess

/-- A host read of the register window; an offset that the map does not name reads 0 (10_state.md R32, R72). -/
def hostRegRead (off : BitVec 12) (width : AccessWidth) (s : State) : Host.Outcome State Fault Refusal :=
  if registerAccessDefined off width then
    match regAt off with
    | none => .next (s.respond (some 0#32))
    | some r => .next (s.respond (some (readReg s r)))
  else .fault .registerAccess

/-- A host write of an SRC byte: nothing beyond the memory's end (20_memory.md R83, also while BUSY: DEDUCED, log entry 8), dropped with HZD while BUSY
(70_reset_and_hazards.md R286). -/
def hostSrcWrite (a : Nat) (b : Byte) (s : State) : State :=
  if a < s.cfg.srcSize.toNat then
    if s.status.busy then s.setHzd.respond none
    else State.respond { s with src := s.src.write a b } none
  else s.respond none

/-- A host read of an SRC byte: 0 beyond the memory's end (R83), no side effect (R286). -/
def hostSrcRead (a : Nat) (s : State) : Host.Outcome State Fault Refusal :=
  if a < s.cfg.srcSize.toNat then
    match s.src.read a with
    | some b => .next (s.respond (some (b.setWidth 32)))
    | none => .fault .hostSrcUnwritten
  else .next (s.respond (some 0#32))

/-- A host write of a DST byte: nothing beyond the memory's end (R83), dropped with HZD while BUSY (R287). -/
def hostDstWrite (a : Nat) (b : Byte) (s : State) : State :=
  if a < s.cfg.dstSize.toNat then
    if s.status.busy then s.setHzd.respond none
    else State.respond { s with dst := s.dst.write a b } none
  else s.respond none

/-- A host read of a DST byte: 0 beyond the memory's end (R83); while BUSY it returns 0, does not look at the
written mark, and sets HZD (R287). -/
def hostDstRead (a : Nat) (s : State) : Host.Outcome State Fault Refusal :=
  if a < s.cfg.dstSize.toNat then
    if s.status.busy then .next (s.setHzd.respond (some 0#32))
    else
      match s.dst.read a with
      | some b => .next (s.respond (some (b.setWidth 32)))
      | none => .fault .hostDstUnwritten
  else .next (s.respond (some 0#32))

/-- One host bus transaction (30_encoding.md R113). -/
def hostAccess (t : BusTxn) (s : State) : Host.Outcome State Fault Refusal :=
  match t with
  | .regWrite off width v => hostRegWrite off width v s
  | .regRead off width => hostRegRead off width s
  | .srcWrite a b => .next (hostSrcWrite a b s)
  | .srcRead a => hostSrcRead a s
  | .dstWrite a b => .next (hostDstWrite a b s)
  | .dstRead a => hostDstRead a s

/-- One read of the polling loop `wait` (30_encoding.md R112): the loop stays pending while the value read has
BUSY = 1. -/
def hostPoll (rest : List HostReq) (s : State) : State :=
  let s := s.respond (some s.status.word)
  if s.status.busy then s else { s with host := rest }

/-- Where a transaction reaches the platform's bus (20_memory.md R90; log entry 12). -/
def BusTxn.platformAddress (c : Config) : BusTxn → Nat
  | .regWrite off _ _ => c.regBase + off.toNat
  | .regRead off _ => c.regBase + off.toNat
  | .srcWrite a _ => c.srcBase + a
  | .srcRead a => c.srcBase + a
  | .dstWrite a _ => c.dstBase + a
  | .dstRead a => c.dstBase + a

end Sys2Proof.Machine
end

