-- ==== Sys2Proof/Machine/Engine.lean ====
section
/-!
DEFINITION. The two agents (spec 10_state.md R30): ENGINE's COMPLETE step (R71) and the host's next request, and which
of them moves. Each moves alone and at once (20_memory.md R91, R93).
-/
namespace Sys2Proof.Machine

/-- COMPLETE is taken now: a command runs, and the host accesses that come before its COMPLETE have all been made
(70_reset_and_hazards.md R291; log entry 3). -/
def completeDue (s : State) : Bool := s.status.busy && (s.delay == 0 || s.host.isEmpty)

/-- ENGINE's COMPLETE step (R71): the latched word is decoded, and the command it names runs; a word that does not
decode ends in BAD_COMMAND (60_exceptions.md R222). -/
def complete (s : State) : Host.Outcome State Fault Refusal :=
  match s.latch.command with
  | .error _ => .next (commitErr .badCommand s)
  | .ok i => exec i s

/-- The state in which the host makes its next request: `rest` stays pending, and one host access fewer may come before
COMPLETE. -/
def hostTurn (rest : List HostReq) (s : State) : State := { s with host := rest, delay := s.delay - 1 }

/-- The host's step: its next request, or nothing when it has none; an idle block does nothing by itself
(70_reset_and_hazards.md R283). -/
def hostStep (s : State) : Host.Outcome State Fault Refusal :=
  match s.host with
  | [] => .next s
  | .access t :: rest => hostAccess t (hostTurn rest s)
  | .wait :: rest => .next (hostPoll rest (hostTurn (.wait :: rest) s))
  | .powerOn :: rest => .next (powerOnReset (hostTurn rest s))

end Sys2Proof.Machine
end

