-- ==== Sys2Proof/Machine/Step.lean ====
section
/-!
DEFINITION. One step of TSS-FE and its host: a COMPLETE step of ENGINE or one host access (spec 20_memory.md R93).
TSS-FE has no program counter and fetches nothing (10_state.md R65): a command comes to run when START latches CMD.
-/
namespace Sys2Proof.Machine

/-- One step of the interleaving (R93). -/
def step (s : State) : Host.Outcome State Fault Refusal :=
  if completeDue s then complete s else hostStep s

/-- `s` with the command word `w` written to CMD and START taken, COMPLETE being due at once, so that the very next step
runs it (log entry 5). -/
def State.withFetchWord (s : State) (nbits w : Nat) : State :=
  startAfter 0 (s.withOps { s.ops with cmd := tableWord nbits w })

end Sys2Proof.Machine
end

