-- ==== Sys2Proof/Safety.lean ====
section
/-!
DEFINITION. What the claims mean by a sound state and a safe run: the invariant every step keeps, and the readability of
the bytes a command reads (spec 60_exceptions.md R233: a claim holds for runs with no model-only fault).
-/
namespace Sys2Proof.Machine

/-- The status register as the spec says it can be: DONE and ERR are never both 1 (10_state.md R35); while a command runs
none of DONE, ERR and ERRCODE is set (R70); a command that completed without error left ERRCODE 0x00 (60_exceptions.md
R221) and one that completed with an error left its code (R230). -/
abbrev Status.Sound (st : Status) : Prop :=
  ¬ (st.done = true ∧ st.err = true)
    ∧ (st.busy = true → st.done = false ∧ st.err = false ∧ st.errcode = .noError)
    ∧ (st.done = true → st.errcode = .noError)
    ∧ (st.err = true → st.errcode ≠ .noError)

/-- An entry that was never loaded has LEN 0 (10_state.md R60, R61: only an accepted write sets LEN, and it sets VALID). -/
abbrev OptTable.Sound (t : OptTable) : Prop := ∀ i : Fin 10, (t[i]).valid = false → (t[i]).len = 0

/-- The state keeps the shape the spec gives it: a legal instance, memories in canonical form with no byte outside them, a
sound status register, a sound opcode table in the registers and in the latch, and an output that fitted DST. -/
abbrev State.Inv (s : State) : Prop :=
  s.cfg.wellFormed = true
    ∧ s.src.wf ∧ s.src.within s.cfg.srcSize.toNat
    ∧ s.dst.wf ∧ s.dst.within s.cfg.dstSize.toNat
    ∧ s.status.Sound
    ∧ OptTable.Sound s.opt ∧ OptTable.Sound s.latch.opt
    ∧ s.outLen.toNat ≤ s.cfg.dstSize.toNat

/-- Every byte of the range has been written (20_memory.md R87). -/
abbrev Memory.Written (m : Memory) (a n : Nat) : Prop := ∀ k < n, m.read (a + k) ≠ none

/-- Every byte that ENC.UPDATE reads has been written: channels c0, c1 and c2 of each pixel, the three that UPD_CH_ORDER
permutes (41_image_encoder.md R184). -/
abbrev Latch.ChannelsWritten (l : Latch) (src : Memory) : Prop :=
  ∀ h < l.height, ∀ w < l.width, ∀ k < 3, pixel l src h w k ≠ none

/-- The ten FRAME.<op> commands with their opcode-table entries (30_encoding.md R102; 40_frame_codec.md R137 to R146). -/
def frameCommands : List ((Byte → Instr) × Fin 10) :=
  [(.frameGetDeviceInfo, 0), (.frameStopVideo, 1), (.frameDisplayFullImage, 2), (.frameQueryRenderStatus, 3),
   (.frameUpdateImageRegion, 4), (.frameStopMedia, 5), (.frameExit, 6), (.frameRestart, 7), (.framePreImageMarker, 8),
   (.framePostImageMarker, 9)]

/-- CMD and the ten operand registers (10_state.md R37 to R47). -/
def operandRegisters : List Reg :=
  [.cmd, .srcAddr, .srcLen, .plAddr, .plLen, .imgW, .imgH, .imgC, .updX, .updY, .dstAddr]

/-- The result and the configuration registers, which ignore writes (10_state.md sections 5 and 6). -/
def readOnlyRegisters : List Reg :=
  [.outLen, .sizeField, .auxCount, .cfgBlock, .cfgRun, .cfgStride, .cfgTxt, .cfgSizes, .cfgSrcSize, .cfgDstSize, .cfgChord,
   .cfgTrailer]

/-- `n` steps of the machine, stopping at the first fault or refusal. -/
abbrev sysRun (n : Nat) (s : State) : Host.Outcome State Fault Refusal := Host.Core.run core n s

/-- The request does not reset the block: neither power-on reset nor a CTRL write with SOFT_RESET (R281). -/
def HostReq.keepsRunning : HostReq → Bool
  | .powerOn => false
  | .wait => true
  | .access (.regWrite off _ v) => !(decide (regAt off = some .ctrl) && v.getLsbD 1)
  | .access (.regRead _ _) => true
  | .access (.srcWrite _ _) => true
  | .access (.srcRead _) => true
  | .access (.dstWrite _ _) => true
  | .access (.dstRead _) => true

end Sys2Proof.Machine
end

