-- ==== Sys2Proof/Certificates/Slice0/Obligations.lean ====
section
/-!
DEFINITION. The statements about TSS-FE, each as a proposition. They come from the numbered rules of the spec: the two
encodings, the streams, every command's result and errors, the engine, the host port, both resets, and the invariant.
-/

open Sys2Proof Sys2Proof.Machine

/-! ## Encoding of commands (30_encoding.md) -/

/-- R105, R111: decoding the word a command assembles to gives the command back, whatever its pad byte. -/
def Obligations.DecodeEncodeRoundTrip : Prop := ∀ i : Instr, decode (encode i) = .ok i

/-- R105: a command is decoded from one word only, the word it assembles to; every bit of the word counts. -/
def Obligations.DecodedWordIsTheEncoding : Prop := ∀ (w : Word) (i : Instr), decode w = .ok i → encode i = w

/-- R107: which words are illegal, field by field; writing one is harmless; running one ends in BAD_COMMAND without a DST
write. -/
def Obligations.IllegalWordsAndTheirEnd : Prop :=
  (∀ w : Word,
    (∃ e, decode w = .error e)
      ↔ w.toNat / 2 ^ 16 ≠ 0
        ∨ w.toNat % 16 = 0 ∨ 5 ≤ w.toNat % 16
        ∨ (w.toNat % 16 = 1 ∧ w.toNat / 16 % 16 ≠ 0)
        ∨ (w.toNat % 16 = 2 ∧ 10 ≤ w.toNat / 16 % 16)
        ∨ ((w.toNat % 16 = 3 ∨ w.toNat % 16 = 4) ∧ (w.toNat / 16 % 16 ≠ 0 ∨ w.toNat / 256 % 256 ≠ 0)))
    ∧ (∀ (w : Word) (s : State),
        hostAccess (.regWrite 0x008#12 .w32 w) s = .next { s with ops := { s.ops with cmd := w }, response := none })
    ∧ (∀ s : State, (∃ e, decode s.latch.ops.cmd = .error e) →
        complete s = .next { s with outLen := 0#32, sizeField := 0#32, auxCount := 0#32,
                                    status := { s.status with errcode := .badCommand, err := true, busy := false } })

/-- R105, R111: a word of each command, written out from the encoding tables, decodes to that command, and three illegal words
do not decode. -/
def Obligations.WrittenOutWordsDecode : Prop :=
  decode 0x00002C01#32 = .ok (.frameRaw 0x2C#8)
    ∧ decode 0x00000002#32 = .ok (.frameGetDeviceInfo 0x00#8)
    ∧ decode 0x00000112#32 = .ok (.frameStopVideo 0x01#8)
    ∧ decode 0x00002C22#32 = .ok (.frameDisplayFullImage 0x2C#8)
    ∧ decode 0x00000032#32 = .ok (.frameQueryRenderStatus 0x00#8)
    ∧ decode 0x00008042#32 = .ok (.frameUpdateImageRegion 0x80#8)
    ∧ decode 0x0000FF52#32 = .ok (.frameStopMedia 0xFF#8)
    ∧ decode 0x00000062#32 = .ok (.frameExit 0x00#8)
    ∧ decode 0x00007F72#32 = .ok (.frameRestart 0x7F#8)
    ∧ decode 0x00000082#32 = .ok (.framePreImageMarker 0x00#8)
    ∧ decode 0x00000092#32 = .ok (.framePostImageMarker 0x00#8)
    ∧ decode 0x00000003#32 = .ok .encFull
    ∧ decode 0x00000004#32 = .ok .encUpdate
    ∧ decode 0x000000A2#32 = .error .opselReserved
    ∧ decode 0x00000103#32 = .error .padNotAllowed
    ∧ decode 0x00010004#32 = .error .reservedBits

/-! ## Frames and streams (00_scope.md R23, 40_frame_codec.md, 41_image_encoder.md) -/

/-- R131: the frame's length is the smallest multiple of 250 that holds opcode and payload, and what is appended is pad. -/
def Obligations.BuildLengthIsSmallestMultiple : Prop :=
  ∀ (op pl : List Byte) (pad : Byte),
    250 ∣ (build op pl pad).length
      ∧ op.length + pl.length ≤ (build op pl pad).length
      ∧ (∀ m, 250 ∣ m → op.length + pl.length ≤ m → (build op pl pad).length ≤ m)
      ∧ ∀ k, op.length + pl.length ≤ k → k < (build op pl pad).length → (build op pl pad)[k]? = some pad

/-- R132: the frame begins with the opcode and the payload unchanged, ends in pad bytes, and has 0 to 249 of them. -/
def Obligations.BuildKeepsItsInput : Prop :=
  ∀ (op pl : List Byte) (pad : Byte),
    (build op pl pad).take (op.length + pl.length) = op ++ pl
      ∧ (∀ b ∈ (build op pl pad).drop (op.length + pl.length), b = pad)
      ∧ (build op pl pad).length - (op.length + pl.length) ≤ 249

/-- R133: no pad on a multiple of 250, an empty frame from nothing, and without a payload the opcode alone
is padded to the next multiple of 250. -/
def Obligations.BuildCornerCases : Prop :=
  ∀ (op pl : List Byte) (pad : Byte),
    (250 ∣ op.length + pl.length → build op pl pad = op ++ pl)
      ∧ build [] [] pad = []
      ∧ build op [] pad = op ++ List.replicate (250 * ((op.length + 249) / 250) - op.length) pad

/-- R23, R180 to R182: a hex field of N digits holds every value below 16^N exactly, most significant digit first; decoding a
text of even length pairs its digits, the first one high; and on an ASCII instance byte k of ENC.UPDATE's output is the code
of digit k of the separated text and its trailer. The alphabet, the order of the digits and the ASCII codes are the spec's
general knowledge, log entry 9. -/
def Obligations.HexFieldsAreExactAndBigEndian : Prop :=
  (∀ n v : Nat, v < 16 ^ n →
      (hexN n v).length = n ∧ (hexN n v).foldl (fun acc d => 16 * acc + d.val) 0 = v)
    ∧ (∀ b : Byte, unhex (hexN 2 b.toNat) = [b])
    ∧ (∀ t : Text, t.length % 2 = 0 →
        (unhex t).length = t.length / 2
          ∧ ∀ k < t.length / 2, ∃ hi lo : HexDigit, t[2 * k]? = some hi ∧ t[2 * k + 1]? = some lo
            ∧ (unhex t)[k]? = some (BitVec.ofNat 8 (16 * hi.val + lo.val)))
    ∧ ∀ (c : Config) (t : Text), c.updWire = .ascii →
        let f : Text := (if t.length > 500 then join [0, 0] (chunks t 498) else t) ++ [0xe, 0xf, 0x6, 0x9]
        (wireBytes c (finalText t)).length = f.length
          ∧ ∀ (k : Nat) (d : HexDigit), f[k]? = some d →
            (wireBytes c (finalText t))[k]?
              = some (BitVec.ofNat 8 (if d.val < 10 then 0x30 + d.val else 0x61 + (d.val - 10)))

/-- R172: the null separators of the full stream, their number and their places, the length, and what stands between. -/
def Obligations.FullStreamSeparators : Prop :=
  ∀ px : List Byte, px ≠ [] →
    (fullStream px).length = px.length + ((px.length + 248) / 249 - 1)
      ∧ (fullStream px).length / 250 = (px.length + 248) / 249 - 1
      ∧ (∀ i < (fullStream px).length,
          (fullStream px)[i]? = if i % 250 = 249 then some 0x00#8 else px[i - i / 250]?)
      ∧ ((fullStream px).zipIdx.filter (fun p => p.2 % 250 != 249)).map Prod.fst = px

/-- R173: a 3-channel buffer keeps its three bytes a pixel and gains an opaque alpha byte, and the separators of its full
stream can be taken out again. That opaque is 0xFF is R18, which takes it from general knowledge (log entry 9). -/
def Obligations.ThreeChannelPixelsGainOpaqueAlpha : Prop :=
  ∀ (l : Latch) (src : Memory) (px : List Byte), l.channelCount = 3 → normalize4 l src = some px →
    (∀ k < l.width * l.height, px[4 * k + 3]? = some 0xFF#8
        ∧ ∀ j < 3, px[4 * k + j]? = src.read (l.ops.srcAddr.toNat + 3 * k + j))
      ∧ ((fullStream px).zipIdx.filter (fun p => p.2 % 250 != 249)).map Prod.fst = px

/-- R170, R187: a 4-channel buffer passes through byte by byte, its alpha bytes too. -/
def Obligations.FourChannelPixelsPassThrough : Prop :=
  ∀ (l : Latch) (src : Memory) (px : List Byte), l.channelCount = 4 → normalize4 l src = some px →
    px.length = 4 * l.width * l.height
      ∧ ∀ i < 4 * l.width * l.height, px[i]? = src.read (l.ops.srcAddr.toNat + i)

/-- R175 to R178, R89: where each field of each row stands in the update text, and what it holds. -/
def Obligations.UpdateTextLayout : Prop :=
  ∀ (c : Config) (l : Latch) (src : Memory) (t : Text), updateText c l src = some t →
    ∀ h < l.height,
      (t.drop (h * (10 + 6 * l.width))).take 6 = hexN 6 ((l.ops.updX.toNat + h) * 800 + l.ops.updY.toNat)
        ∧ (t.drop (h * (10 + 6 * l.width) + 6)).take 4 = hexN 4 l.width
        ∧ ∀ w < l.width, ∀ j < 3, ∃ (k : Nat) (b : Byte),
            c.chOrder.channels[j]? = some k
              ∧ src.read (l.ops.srcAddr.toNat + (h * l.width + w) * l.channelCount + k) = some b
              ∧ (t.drop (h * (10 + 6 * l.width) + 10 + 6 * w + 2 * j)).take 2 = hexN 2 b.toNat

/-- R186: in DECODED form the text-level separators are the full-frame separator rule applied to the decoded bytes, above
a threshold of 250 bytes, and the trailer follows. -/
def Obligations.DecodedUpdateIsByteSeparated : Prop :=
  ∀ (c : Config) (l : Latch) (src : Memory) (t : Text), c.updWire = .decoded → updateText c l src = some t →
    (unhex t).length = updateTextLength l / 2
      ∧ wireBytes c (finalText t)
        = (if (unhex t).length > 250 then join [0x00#8] (chunks (unhex t) 249) else unhex t) ++ [0xEF#8, 0x69#8]

/-- R185: the derived lengths of ENC.UPDATE. -/
def Obligations.UpdateLengths : Prop :=
  ∀ (c : Config) (l : Latch) (src : Memory) (t : Text), updateText c l src = some t →
    let Lt := l.height * (10 + 6 * l.width)
    let sepT := if Lt > 500 then (Lt + 497) / 498 - 1 else 0
    t.length = Lt
      ∧ (∀ h r, rowText c l src h = some r → (unhex r).length = 5 + 3 * l.width)
      ∧ (finalText t).length = Lt + 2 * sepT + 4
      ∧ (c.updWire = .decoded → (wireBytes c (finalText t)).length = Lt / 2 + sepT + 2
          ∧ Lt / 2 + sepT + 2 = updateSize l + sepT)
      ∧ (c.updWire = .ascii → (wireBytes c (finalText t)).length = Lt + 2 * sepT + 4)

/-! ## The commands: completion, errors, model-only faults, frame -/

/-- R230: what the end of a command with an error writes, and that it writes nothing else. -/
def Obligations.CommitErrWrites : Prop :=
  ∀ (code : ErrCode) (s : State),
    commitErr code s
      = { s with outLen := 0#32, sizeField := 0#32, auxCount := 0#32,
                 status := { s.status with errcode := code, err := true, busy := false } }

/-- R135: FRAME.RAW completes when its ranges lie in SRC, its frame fits DST and its bytes were written; the next state in
full. -/
def Obligations.FrameRawCompletes : Prop :=
  ∀ (pad : Byte) (s : State) (op pl : List Byte),
    let o := s.latch.ops
    let n := o.srcLen.toNat + o.plLen.toNat
    let T := 250 * ((n + 249) / 250)
    o.srcAddr.toNat + o.srcLen.toNat ≤ s.cfg.srcSize.toNat →
    o.plAddr.toNat + o.plLen.toNat ≤ s.cfg.srcSize.toNat →
    o.dstAddr.toNat + T ≤ s.cfg.dstSize.toNat →
    op.length = o.srcLen.toNat → (∀ k < op.length, s.src.read (o.srcAddr.toNat + k) = op[k]?) →
    pl.length = o.plLen.toNat → (∀ k < pl.length, s.src.read (o.plAddr.toNat + k) = pl[k]?) →
      exec (.frameRaw pad) s
        = .next { s with dst := s.dst.writeBytes o.dstAddr.toNat (op ++ pl ++ List.replicate (T - n) pad)
                         outLen := BitVec.ofNat 32 T, sizeField := 0#32, auxCount := BitVec.ofNat 32 (T - n)
                         status := { s.status with done := true, busy := false } }

/-- R135, R227, R228: when FRAME.RAW ends with an error, and with which. -/
def Obligations.FrameRawErrors : Prop :=
  ∀ (pad : Byte) (s : State),
    let o := s.latch.ops
    let T := 250 * ((o.srcLen.toNat + o.plLen.toNat + 249) / 250)
    let srcOk := o.srcAddr.toNat + o.srcLen.toNat ≤ s.cfg.srcSize.toNat
      ∧ o.plAddr.toNat + o.plLen.toNat ≤ s.cfg.srcSize.toNat
    (¬ srcOk → exec (.frameRaw pad) s = .next (commitErr .srcRange s))
      ∧ (srcOk → s.cfg.dstSize.toNat < o.dstAddr.toNat + T →
          exec (.frameRaw pad) s = .next (commitErr .dstOverflow s))

/-- R136 to R146: each of the ten FRAME.<op> commands completes when its entry is loaded, its payload lies in SRC, its frame
fits DST and the payload was written; the next state in full. `frameCommands` names them with their entries. The opcode has LEN
bytes, each the one written to OPT_BYTE[i][j]; one that was never written is a free value, the model's choice (log entry 15). -/
def Obligations.FrameOpCompletes : Prop :=
  ∀ p ∈ frameCommands, ∀ (pad : Byte) (s : State) (pl : List Byte),
    let o := s.latch.ops
    let e := s.latch.opt[p.2]
    let n := e.len.val + o.plLen.toNat
    let T := 250 * ((n + 249) / 250)
    e.valid = true →
    o.plAddr.toNat + o.plLen.toNat ≤ s.cfg.srcSize.toNat →
    o.dstAddr.toNat + T ≤ s.cfg.dstSize.toNat →
    pl.length = o.plLen.toNat → (∀ k < pl.length, s.src.read (o.plAddr.toNat + k) = pl[k]?) →
      ∃ op : List Byte, op.length = e.len.val
        ∧ (∀ j : Fin 16, j.val < e.len.val → (e.bytes[j]).written = true → op[j.val]? = some (e.bytes[j]).byte)
        ∧ exec (p.1 pad) s
          = .next { s with dst := s.dst.writeBytes o.dstAddr.toNat (op ++ pl ++ List.replicate (T - n) pad)
                           outLen := BitVec.ofNat 32 T, sizeField := 0#32, auxCount := BitVec.ofNat 32 (T - n)
                           status := { s.status with done := true, busy := false } }

/-- R136, R225, R227, R228: when a FRAME.<op> command ends with an error, in the order of the checks. -/
def Obligations.FrameOpErrors : Prop :=
  ∀ p ∈ frameCommands, ∀ (pad : Byte) (s : State),
    let o := s.latch.ops
    let e := s.latch.opt[p.2]
    let T := 250 * ((e.len.val + o.plLen.toNat + 249) / 250)
    let srcOk := o.plAddr.toNat + o.plLen.toNat ≤ s.cfg.srcSize.toNat
    (e.valid = false → exec (p.1 pad) s = .next (commitErr .opcodeUnset s))
      ∧ (e.valid = true → ¬ srcOk → exec (p.1 pad) s = .next (commitErr .srcRange s))
      ∧ (e.valid = true → srcOk → s.cfg.dstSize.toNat < o.dstAddr.toNat + T →
          exec (p.1 pad) s = .next (commitErr .dstOverflow s))

/-- R174: ENC.FULL completes when the image is legal, lies in SRC, has been written, and its stream fits DST. -/
def Obligations.EncFullCompletes : Prop :=
  ∀ s : State,
    let l := s.latch
    let N := 4 * l.width * l.height
    let sep := (N + 248) / 249 - 1
    l.width ≠ 0 → l.height ≠ 0 → (l.channelCount = 3 ∨ l.channelCount = 4) →
    l.ops.srcAddr.toNat + l.width * l.height * l.channelCount ≤ s.cfg.srcSize.toNat →
    l.ops.dstAddr.toNat + (N + sep) ≤ s.cfg.dstSize.toNat →
    s.src.Written l.ops.srcAddr.toNat (l.width * l.height * l.channelCount) →
      ∃ px, normalize4 l s.src = some px
        ∧ exec .encFull s
          = .next { s with dst := s.dst.writeBytes l.ops.dstAddr.toNat (fullStream px)
                           outLen := BitVec.ofNat 32 (N + sep), sizeField := 0#32, auxCount := BitVec.ofNat 32 sep
                           status := { s.status with done := true, busy := false } }

/-- R174, R223, R224, R227, R228: when ENC.FULL ends with an error, in the order of the checks. -/
def Obligations.EncFullErrors : Prop :=
  ∀ s : State,
    let l := s.latch
    let N := 4 * l.width * l.height
    let dimOk := l.width ≠ 0 ∧ l.height ≠ 0
    let chOk := l.channelCount = 3 ∨ l.channelCount = 4
    let srcOk := l.ops.srcAddr.toNat + l.width * l.height * l.channelCount ≤ s.cfg.srcSize.toNat
    (¬ dimOk → exec .encFull s = .next (commitErr .badDimension s))
      ∧ (dimOk → ¬ chOk → exec .encFull s = .next (commitErr .badChannels s))
      ∧ (dimOk → chOk → ¬ srcOk → exec .encFull s = .next (commitErr .srcRange s))
      ∧ (dimOk → chOk → srcOk → s.cfg.dstSize.toNat < l.ops.dstAddr.toNat + (N + ((N + 248) / 249 - 1)) →
          exec .encFull s = .next (commitErr .dstOverflow s))

/-- R184: ENC.UPDATE completes when the image is legal, its fields fit their digits, it lies in SRC, the channels it reads
have been written, and its output fits DST. -/
def Obligations.EncUpdateCompletes : Prop :=
  ∀ s : State,
    let l := s.latch
    let Lt := l.height * (10 + 6 * l.width)
    let size := l.height * (5 + 3 * l.width) + 2
    let sepT := if Lt > 500 then (Lt + 497) / 498 - 1 else 0
    let T := if s.cfg.updWire = .decoded then Lt / 2 + sepT + 2 else Lt + 2 * sepT + 4
    l.width ≠ 0 → l.height ≠ 0 → (l.channelCount = 3 ∨ l.channelCount = 4) →
    l.width ≤ 0xFFFF →
    (l.ops.updX.toNat + l.height - 1) * 800 + l.ops.updY.toNat ≤ 0xFFFFFF →
    size ≤ 16 ^ s.cfg.sizeDigits.toNat - 1 →
    l.ops.srcAddr.toNat + l.width * l.height * l.channelCount ≤ s.cfg.srcSize.toNat →
    l.ops.dstAddr.toNat + T ≤ s.cfg.dstSize.toNat →
    l.ChannelsWritten s.src →
      ∃ t, updateText s.cfg l s.src = some t
        ∧ exec .encUpdate s
          = .next { s with dst := s.dst.writeBytes l.ops.dstAddr.toNat (wireBytes s.cfg (finalText t))
                           outLen := BitVec.ofNat 32 T, sizeField := BitVec.ofNat 32 size
                           auxCount := BitVec.ofNat 32 sepT
                           status := { s.status with done := true, busy := false } }

/-- R183, R184, R223, R224, R226 to R228: when ENC.UPDATE ends with an error, in the order of the checks. -/
def Obligations.EncUpdateErrors : Prop :=
  ∀ s : State,
    let l := s.latch
    let Lt := l.height * (10 + 6 * l.width)
    let sepT := if Lt > 500 then (Lt + 497) / 498 - 1 else 0
    let T := if s.cfg.updWire = .decoded then Lt / 2 + sepT + 2 else Lt + 2 * sepT + 4
    let dimOk := l.width ≠ 0 ∧ l.height ≠ 0
    let chOk := l.channelCount = 3 ∨ l.channelCount = 4
    let fieldsOk := l.width ≤ 0xFFFF
      ∧ (l.ops.updX.toNat + l.height - 1) * 800 + l.ops.updY.toNat ≤ 0xFFFFFF
      ∧ l.height * (5 + 3 * l.width) + 2 ≤ 16 ^ s.cfg.sizeDigits.toNat - 1
    let srcOk := l.ops.srcAddr.toNat + l.width * l.height * l.channelCount ≤ s.cfg.srcSize.toNat
    (¬ dimOk → exec .encUpdate s = .next (commitErr .badDimension s))
      ∧ (dimOk → ¬ chOk → exec .encUpdate s = .next (commitErr .badChannels s))
      ∧ (dimOk → chOk → ¬ fieldsOk → exec .encUpdate s = .next (commitErr .fieldOverflow s))
      ∧ (dimOk → chOk → fieldsOk → ¬ srcOk → exec .encUpdate s = .next (commitErr .srcRange s))
      ∧ (dimOk → chOk → fieldsOk → srcOk → s.cfg.dstSize.toNat < l.ops.dstAddr.toNat + T →
          exec .encUpdate s = .next (commitErr .dstOverflow s))

/-- R87, R229: when a frame command stops with a model-only fault: every check has passed and a byte of SRC that it reads was
never written (log entry 7). An opcode-table byte that was never written is no such case (log entry 15). -/
def Obligations.FrameFaultsOnUnwrittenBytes : Prop :=
  (∀ (pad : Byte) (s : State),
    let o := s.latch.ops
    o.srcAddr.toNat + o.srcLen.toNat ≤ s.cfg.srcSize.toNat →
    o.plAddr.toNat + o.plLen.toNat ≤ s.cfg.srcSize.toNat →
    o.dstAddr.toNat + 250 * ((o.srcLen.toNat + o.plLen.toNat + 249) / 250) ≤ s.cfg.dstSize.toNat →
    ¬ (s.src.Written o.srcAddr.toNat o.srcLen.toNat ∧ s.src.Written o.plAddr.toNat o.plLen.toNat) →
      exec (.frameRaw pad) s = .fault .engineSrcUnwritten)
    ∧ ∀ p ∈ frameCommands, ∀ (pad : Byte) (s : State),
        let o := s.latch.ops
        let e := s.latch.opt[p.2]
        e.valid = true →
        o.plAddr.toNat + o.plLen.toNat ≤ s.cfg.srcSize.toNat →
        o.dstAddr.toNat + 250 * ((e.len.val + o.plLen.toNat + 249) / 250) ≤ s.cfg.dstSize.toNat →
        ¬ s.src.Written o.plAddr.toNat o.plLen.toNat →
          exec (p.1 pad) s = .fault .engineSrcUnwritten

/-- R87, R174, R184: ENC.FULL reads every byte of the buffer and ENC.UPDATE its three channels only; where one of those was
never written, the command, all checks passed, stops with the model-only fault. -/
def Obligations.EncoderFaultsOnUnwrittenPixels : Prop :=
  ∀ s : State,
    let l := s.latch
    let N := 4 * l.width * l.height
    l.width ≠ 0 → l.height ≠ 0 → (l.channelCount = 3 ∨ l.channelCount = 4) →
    l.ops.srcAddr.toNat + l.width * l.height * l.channelCount ≤ s.cfg.srcSize.toNat →
      (l.ops.dstAddr.toNat + (N + ((N + 248) / 249 - 1)) ≤ s.cfg.dstSize.toNat →
        ¬ s.src.Written l.ops.srcAddr.toNat (l.width * l.height * l.channelCount) →
          exec .encFull s = .fault .engineSrcUnwritten)
        ∧ (fieldsFit s.cfg l → l.ops.dstAddr.toNat + updateLength s.cfg l ≤ s.cfg.dstSize.toNat →
            ¬ l.ChannelsWritten s.src → exec .encUpdate s = .fault .engineSrcUnwritten)

/-- R187: ENC.UPDATE's text depends on no byte of SRC but the first three channels of the pixels, so a fourth lane is
dropped. -/
def Obligations.UpdateTextIgnoresOtherBytes : Prop :=
  ∀ (c : Config) (l : Latch) (src src' : Memory),
    (∀ h < l.height, ∀ w < l.width, ∀ k < 3, pixel l src h w k = pixel l src' h w k) →
      updateText c l src = updateText c l src'

/-- R231, R88, R94: what a command changes when it completes, and that it changes nothing else: DST in the OUT_LEN bytes at
the latched DST_ADDR, the result registers, DONE or ERR with ERRCODE, and BUSY. It holds for all 13 commands. -/
def Obligations.CommandFrame : Prop :=
  ∀ (i : Instr) (s t : State), exec i s = .next t →
    t.cfg = s.cfg ∧ t.irqEn = s.irqEn ∧ t.ops = s.ops ∧ t.opt = s.opt ∧ t.latch = s.latch ∧ t.src = s.src
      ∧ t.host = s.host ∧ t.response = s.response ∧ t.delay = s.delay ∧ t.draws = s.draws
      ∧ t.status.hzd = s.status.hzd ∧ t.status.busy = false
      ∧ (∀ a : Nat, a < s.latch.ops.dstAddr.toNat ∨ s.latch.ops.dstAddr.toNat + t.outLen.toNat ≤ a →
          t.dst.read a = s.dst.read a)
      ∧ (∀ k < t.outLen.toNat, t.dst.read (s.latch.ops.dstAddr.toNat + k) ≠ none)
      ∧ s.latch.ops.dstAddr.toNat + t.outLen.toNat ≤ max s.cfg.dstSize.toNat s.latch.ops.dstAddr.toNat

/-- R237, R230: a command that ends with an error has no effect but the writes of CommitErr; in particular DST is
unchanged. -/
def Obligations.ErrorsArePrecise : Prop :=
  ∀ (i : Instr) (s t : State), s.status.err = false → exec i s = .next t → t.status.err = true →
    t.dst = s.dst ∧ t = commitErr t.status.errcode s

/-- R25, R48 to R50: the result registers hold the exact numbers of the result; nothing wraps at 32 bits. -/
def Obligations.ResultRegistersAreExact : Prop :=
  ∀ (i : Instr) (s t : State) (out : List Byte) (size aux : Nat),
    execute i s.cfg s.latch s.src = .ok out size aux → exec i s = .next t →
      t.outLen.toNat = out.length ∧ t.sizeField.toNat = size ∧ t.auxCount.toNat = aux
        ∧ ∀ k (hk : k < out.length), t.dst.read (s.latch.ops.dstAddr.toNat + k) = some out[k]

/-- R221, R230, R231, R293: at the end of a command BUSY is 0 and exactly one of DONE and ERR is 1, ERRCODE being 0x00 with
DONE and the error's code with ERR. -/
def Obligations.CompletionSetsDoneOrErr : Prop :=
  ∀ s t : State, s.status.Sound → s.status.busy = true → complete s = .next t →
    t.status.busy = false ∧ (t.status.done = !t.status.err)
      ∧ (t.status.done = true ↔ t.status.errcode = .noError) ∧ t.status.hzd = s.status.hzd

/-! ## The engine and its step (10_state.md section 9, 20_memory.md section 4) -/

/-- R71, R93: when COMPLETE is due, the step is the meaning of the latched command, in the state as it stands. When it is due
is the model's scheduling, log entry 3. -/
def Obligations.StepRunsLatchedCommand : Prop :=
  ∀ (s : State) (i : Instr),
    s.status.busy = true → (s.delay = 0 ∨ s.host = []) →
      step s = complete s ∧ (decode s.latch.ops.cmd = .ok i → step s = exec i s)

/-- R30, R93, R283: when COMPLETE is not due, the step is the host's: nothing, one transaction, one read of a polling loop,
or a power-on reset. Which of the two agents moves, and that an access or a poll takes one from the delay, is the model's
scheduling, log entry 3; the requests as a list are log entry 6; what a power-on reset keeps, and the latch, `response` and
`delay` after it, are log entries 1, 2, 10 and 11. -/
def Obligations.StepPerformsHostRequest : Prop :=
  ∀ s : State, (s.status.busy = false ∨ (s.delay ≠ 0 ∧ s.host ≠ [])) →
    (s.host = [] → step s = .next s)
      ∧ (∀ t rest, s.host = .access t :: rest →
          step s = hostAccess t { s with host := rest, delay := s.delay - 1 })
      ∧ (∀ rest, s.host = .wait :: rest →
          step s = .next { s with host := if s.status.busy then s.host else rest, delay := s.delay - 1,
                                  response := some s.status.word })
      ∧ (∀ rest, s.host = .powerOn :: rest →
          step s = .next { State.reset with cfg := s.cfg, host := rest, draws := s.draws })

/-- R34, R67, R70: a CTRL write with START and without SOFT_RESET, while idle, takes the snapshot and sets BUSY; the three
result registers keep their values. -/
def Obligations.StartLatchesOperands : Prop :=
  ∀ (v : Word) (s : State), v.getLsbD 0 = true → v.getLsbD 1 = false → s.status.busy = false →
    ∃ d n : Nat, hostAccess (.regWrite 0x000#12 .w32 v) s
      = .next { s with irqEn := v.getLsbD 2
                       status := { busy := true, done := false, err := false, hzd := s.status.hzd, errcode := .noError }
                       latch := { ops := s.ops, opt := s.opt }, response := none, delay := d, draws := n }

/-- R285: a START while a command runs is dropped and sets HZD; IRQ_EN still takes effect. -/
def Obligations.StartWhileBusyIsDropped : Prop :=
  ∀ (v : Word) (s : State), v.getLsbD 0 = true → v.getLsbD 1 = false → s.status.busy = true →
    hostAccess (.regWrite 0x000#12 .w32 v) s
      = .next { s with irqEn := v.getLsbD 2, status := { s.status with hzd := true }, response := none }

/-- R34: a CTRL write with neither START nor SOFT_RESET sets IRQ_EN and does nothing else. -/
def Obligations.CtrlWriteSetsIrqEnable : Prop :=
  ∀ (v : Word) (s : State), v.getLsbD 0 = false → v.getLsbD 1 = false →
    hostAccess (.regWrite 0x000#12 .w32 v) s = .next { s with irqEn := v.getLsbD 2, response := none }

/-- R281: a soft reset of an idle block, whatever START and IRQ_EN in the same write. That the latch and the model's own fields
stay is log entry 10. -/
def Obligations.SoftResetWhileIdle : Prop :=
  ∀ (v : Word) (s : State), v.getLsbD 1 = true → s.status.busy = false →
    hostAccess (.regWrite 0x000#12 .w32 v) s
      = .next { s with irqEn := false, status := Status.reset, ops := OperandRegs.reset, outLen := 0#32
                       sizeField := 0#32, auxCount := 0#32, response := none }

/-- R282: a soft reset while a command runs leaves in DST the first k bytes of what the command would have written, for some
k from 0 to their number, and none where the command would have ended with an error or a model-only fault; what it would have
done is what its COMPLETE step does in that state. How k is drawn is log entry 4; that the latch
and `delay` stay is log entry 10. -/
def Obligations.SoftResetWhileBusyWritesAPrefix : Prop :=
  ∀ (v : Word) (s : State), v.getLsbD 1 = true → s.status.busy = true →
    ∃ (k n : Nat) (out : List Byte),
      hostAccess (.regWrite 0x000#12 .w32 v) s
        = .next { s with irqEn := false, status := Status.reset, ops := OperandRegs.reset, outLen := 0#32
                         sizeField := 0#32, auxCount := 0#32, response := none, draws := n
                         dst := s.dst.writeBytes s.latch.ops.dstAddr.toNat (out.take k) }
        ∧ k ≤ out.length
        ∧ (match latchedResult s.cfg s.latch s.src with
            | .ok o size aux => out = o
                ∧ complete s
                  = .next { s with dst := s.dst.writeBytes s.latch.ops.dstAddr.toNat o
                                   outLen := BitVec.ofNat 32 o.length, sizeField := BitVec.ofNat 32 size
                                   auxCount := BitVec.ofNat 32 aux
                                   status := { s.status with done := true, busy := false } }
            | .err code => out = [] ∧ complete s = .next (commitErr code s)
            | .fault f => out = [] ∧ complete s = .fault f)

/-- R69: the interrupt line. -/
def Obligations.IrqLine : Prop :=
  (∀ s : State, s.irq = true ↔ s.irqEn = true ∧ (s.status.done = true ∨ s.status.err = true))
    ∧ (∀ (s : State) (b : Bool), State.irq { s with status := { s.status with hzd := b } } = s.irq)
    ∧ State.reset.irq = false ∧ ∀ s : State, (softReset s).irq = false

/-! ## The host port (10_state.md sections 2 to 7, 20_memory.md, 70_reset_and_hazards.md section 2)

In these statements `response` records what the access returned: the word of a read (R72), nothing for a write (log entry 6). -/

/-- R36: a write to STATUS clears DONE, ERR and HZD where it has a 1 and does nothing else. -/
def Obligations.StatusWriteOneToClear : Prop :=
  ∀ (v : Word) (s : State),
    hostAccess (.regWrite 0x004#12 .w32 v) s
      = .next { s with status := { busy := s.status.busy, errcode := s.status.errcode
                                   done := if v.getLsbD 1 then false else s.status.done
                                   err := if v.getLsbD 2 then false else s.status.err
                                   hzd := if v.getLsbD 3 then false else s.status.hzd }
                       response := none }

/-- R33, R35, R221 to R228: the places of the fields of CTRL and STATUS in the words a host reads, the other bits reading 0,
and the values of the error codes. -/
def Obligations.ControlAndStatusWordLayout : Prop :=
  ∀ s : State,
    hostAccess (.regRead 0x000#12 .w32) s = .next { s with response := some (if s.irqEn then 0x4#32 else 0x0#32) }
      ∧ hostAccess (.regRead 0x004#12 .w32) s = .next { s with response := some s.status.word }
      ∧ s.status.word.toNat
        = s.status.busy.toNat + 2 * s.status.done.toNat + 4 * s.status.err.toNat + 8 * s.status.hzd.toNat
          + 256 * s.status.errcode.code.toNat
      ∧ [ErrCode.noError, .badCommand, .badDimension, .badChannels, .opcodeUnset, .fieldOverflow, .srcRange, .dstOverflow].map
          ErrCode.code = [0x00#8, 0x01#8, 0x02#8, 0x03#8, 0x04#8, 0x05#8, 0x06#8, 0x07#8]

/-- R32, R60, R62: every named register stands at the offset the map gives it, a multiple of 4; a host access to that offset
reaches that register, and no two registers share an offset; a host read of a register answers what it reads. That such a read
answers for an OPT_BYTE never written too, where R62 and R233 have a model-only fault, is the model's choice (log entry 15). -/
def Obligations.RegisterMapIsFaithful : Prop :=
  ([Reg.ctrl, .status, .cmd, .srcAddr, .srcLen, .plAddr, .plLen, .imgW, .imgH, .imgC, .updX, .updY, .dstAddr, .outLen,
      .sizeField, .auxCount, .cfgBlock, .cfgRun, .cfgStride, .cfgTxt, .cfgSizes, .cfgSrcSize, .cfgDstSize, .cfgChord,
      .cfgTrailer].map (fun r => r.offset.toNat) = (List.range 25).map (fun k => 4 * k))
    ∧ (∀ i : Fin 10, (Reg.optLen i).offset.toNat = 0x100 + 4 * i.val)
    ∧ (∀ (i : Fin 10) (j : Fin 16), (Reg.optByte i j).offset.toNat = 0x200 + 4 * (16 * i.val + j.val))
    ∧ (∀ r : Reg, regAt r.offset = some r ∧ r.offset.toNat % 4 = 0)
    ∧ (∀ (off : BitVec 12) (r : Reg), off.toNat % 4 = 0 → regAt off = some r → off = r.offset)
    ∧ ∀ (r : Reg) (s : State),
      hostAccess (.regRead r.offset .w32) s
        = .next { s with response := some (readReg s r) }

/-- R32, R72: an offset that the map does not name reads 0 and ignores writes. -/
def Obligations.UnnamedOffsetsReadZero : Prop :=
  ∀ (off : BitVec 12) (v : Word) (s : State), off.toNat % 4 = 0 →
    ((0x064 ≤ off.toNat ∧ off.toNat < 0x100) ∨ (0x128 ≤ off.toNat ∧ off.toNat < 0x200) ∨ 0x480 ≤ off.toNat) →
      hostAccess (.regRead off .w32) s = .next { s with response := some 0#32 }
        ∧ hostAccess (.regWrite off .w32 v) s = .next { s with response := none }

/-- R37 to R47, R72, R288: a write to the offset of CMD or of an operand register, busy or not, stores the value in the field
that the commands take that operand from and changes nothing else; a read at the offset returns that field; and, by the
registers' names, each reads back what was written while the other ten read as before. -/
def Obligations.OperandRegistersReadBack : Prop :=
  (∀ (v : Word) (s : State),
    let wrote (off : BitVec 12) (ops : OperandRegs) :=
      hostAccess (.regWrite off .w32 v) s = .next { s with ops := ops, response := none }
    let reads (off : BitVec 12) (w : Word) := hostAccess (.regRead off .w32) s = .next { s with response := some w }
    (wrote 0x008#12 { s.ops with cmd := v } ∧ reads 0x008#12 s.ops.cmd)
      ∧ (wrote 0x00C#12 { s.ops with srcAddr := v } ∧ reads 0x00C#12 s.ops.srcAddr)
      ∧ (wrote 0x010#12 { s.ops with srcLen := v } ∧ reads 0x010#12 s.ops.srcLen)
      ∧ (wrote 0x014#12 { s.ops with plAddr := v } ∧ reads 0x014#12 s.ops.plAddr)
      ∧ (wrote 0x018#12 { s.ops with plLen := v } ∧ reads 0x018#12 s.ops.plLen)
      ∧ (wrote 0x01C#12 { s.ops with imgW := v } ∧ reads 0x01C#12 s.ops.imgW)
      ∧ (wrote 0x020#12 { s.ops with imgH := v } ∧ reads 0x020#12 s.ops.imgH)
      ∧ (wrote 0x024#12 { s.ops with imgC := v } ∧ reads 0x024#12 s.ops.imgC)
      ∧ (wrote 0x028#12 { s.ops with updX := v } ∧ reads 0x028#12 s.ops.updX)
      ∧ (wrote 0x02C#12 { s.ops with updY := v } ∧ reads 0x02C#12 s.ops.updY)
      ∧ (wrote 0x030#12 { s.ops with dstAddr := v } ∧ reads 0x030#12 s.ops.dstAddr))
    ∧ ∀ r ∈ operandRegisters, ∀ (v : Word) (s : State), ∃ ops : OperandRegs,
      hostAccess (.regWrite r.offset .w32 v) s = .next { s with ops := ops, response := none }
        ∧ readReg { s with ops := ops, response := none } r = v
        ∧ ∀ r' ∈ operandRegisters, r' ≠ r → readReg { s with ops := ops, response := none } r' = readReg s r'

/-- R48 to R59: writes to the result and the configuration registers are ignored. -/
def Obligations.ReadOnlyRegistersIgnoreWrites : Prop :=
  ∀ r ∈ readOnlyRegisters, ∀ (v : Word) (s : State),
    hostAccess (.regWrite r.offset .w32 v) s = .next { s with response := none }

/-- R48 to R59, R12, R16: what a host reads at the offsets of the result and of the configuration registers, and which values
SIZE_DIGITS and UPD_CH_ORDER can have. -/
def Obligations.ReadOnlyRegisterValues : Prop :=
  ∀ s : State,
    let reads (off : BitVec 12) (v : Word) := hostAccess (.regRead off .w32) s = .next { s with response := some v }
    reads 0x034#12 s.outLen ∧ reads 0x038#12 s.sizeField ∧ reads 0x03C#12 s.auxCount
      ∧ reads 0x040#12 0x000000FA#32 ∧ reads 0x044#12 0x000000F9#32 ∧ reads 0x048#12 0x00000320#32
      ∧ reads 0x04C#12 0x01F401F2#32 ∧ reads 0x054#12 s.cfg.srcSize ∧ reads 0x058#12 s.cfg.dstSize
      ∧ reads 0x060#12 0x0000EF69#32
      ∧ (∃ w : Word, reads 0x050#12 w ∧ w.toNat % 256 = s.cfg.sizeDigits.toNat
          ∧ w.toNat / 2 ^ 8 % 256 = 16 ∧ w.toNat / 2 ^ 16 % 256 = 10
          ∧ w.toNat / 2 ^ 24 = (if s.cfg.updWire = .ascii then 1 else 0))
      ∧ (∃ w : Word, reads 0x05C#12 w ∧ w.toNat < 64
          ∧ s.cfg.chOrder.channels = [w.toNat % 4, w.toNat / 4 % 4, w.toNat / 16])
      ∧ s.cfg.sizeDigits.toNat ∈ [2, 4, 6, 8] ∧ s.cfg.chOrder.channels.Perm [0, 1, 2]

/-- R61: a write to OPT_LEN[i] is accepted when v[4:0] is at most 16 and ignored otherwise; no step but a power-on reset
clears a VALID bit, and that one clears them all. R60, R72: a read of OPT_LEN[i] returns LEN in bits 4:0, VALID in bit 31 and 0
elsewhere. -/
def Obligations.OptLenWrites : Prop :=
  (∀ (i : Fin 10) (v : Word) (s : State) (h : v.toNat % 32 ≤ 16),
    hostAccess (.regWrite (Reg.optLen i).offset .w32 v) s
      = .next { s with opt := s.opt.set i { len := ⟨v.toNat % 32, by omega⟩, valid := true, bytes := s.opt[i].bytes }
                       response := none })
    ∧ (∀ (i : Fin 10) (v : Word) (s : State), 16 < v.toNat % 32 →
        hostAccess (.regWrite (Reg.optLen i).offset .w32 v) s = .next { s with response := none })
    ∧ (∀ s s' : State, step s = .next s' → (∀ rest, s.host ≠ .powerOn :: rest) →
        ∀ i : Fin 10, s.opt[i].valid = true → s'.opt[i].valid = true)
    ∧ (∀ (s : State) (i : Fin 10), (powerOnReset s).opt[i].valid = false)
    ∧ ∀ (i : Fin 10) (s : State), ∃ w : Word,
        hostAccess (.regRead (Reg.optLen i).offset .w32) s = .next { s with response := some w }
          ∧ w.toNat = s.opt[i].len.val + 2 ^ 31 * s.opt[i].valid.toNat

/-- R62, R68: OPT_BYTE[i][j] keeps bits 7:0 of what was written, its written mark is set, and nothing else of the table
changes; a read of a written one returns its byte in bits 7:0 and 0 elsewhere, and a read of one never written returns some byte
in bits 7:0, a free value, the model's choice (log entry 15), and 0 elsewhere. -/
def Obligations.OptByteWritesAndReads : Prop :=
  ∀ (i : Fin 10) (j : Fin 16) (s : State),
    (∀ v : Word, ∃ s', hostAccess (.regWrite (Reg.optByte i j).offset .w32 v) s = .next s'
        ∧ s'.opt[i].bytes[j] = { byte := BitVec.ofNat 8 v.toNat, written := true }
        ∧ (∀ (i' : Fin 10) (j' : Fin 16), (i', j') ≠ (i, j) → s'.opt[i'].bytes[j'] = s.opt[i'].bytes[j'])
        ∧ (∀ i' : Fin 10, s'.opt[i'].len = s.opt[i'].len ∧ s'.opt[i'].valid = s.opt[i'].valid)
        ∧ s' = { s with opt := s'.opt, response := none })
      ∧ ∃ w : Word,
        hostAccess (.regRead (Reg.optByte i j).offset .w32) s = .next { s with response := some w }
          ∧ w.toNat < 256
          ∧ ((s.opt[i].bytes[j]).written = true → w.toNat = (s.opt[i].bytes[j]).byte.toNat)

/-- R86, R233: a host register access that is not an aligned 32-bit access is a model-only fault. -/
def Obligations.UndefinedRegisterAccessFaults : Prop :=
  ∀ (off : BitVec 12) (width : AccessWidth) (v : Word) (s : State), (width ≠ .w32 ∨ off.toNat % 4 ≠ 0) →
    hostAccess (.regWrite off width v) s = .fault .registerAccess
      ∧ hostAccess (.regRead off width) s = .fault .registerAccess

/-- R83: a host access beyond the end of SRC or DST reads 0x00 or is ignored, and sets no flag. -/
def Obligations.AccessBeyondMemoryHasNoEffect : Prop :=
  ∀ (a : Nat) (b : Byte) (s : State),
    (s.cfg.srcSize.toNat ≤ a →
        hostAccess (.srcRead a) s = .next { s with response := some 0#32 }
          ∧ hostAccess (.srcWrite a b) s = .next { s with response := none })
      ∧ (s.cfg.dstSize.toNat ≤ a →
        hostAccess (.dstRead a) s = .next { s with response := some 0#32 }
          ∧ hostAccess (.dstWrite a b) s = .next { s with response := none })

/-- R286, R233: an SRC write while a command runs is dropped and sets HZD; an SRC read then is allowed and has no side effect:
it returns the byte, or is a model-only fault for one never written (log entry 7). -/
def Obligations.SrcAccessWhileBusy : Prop :=
  ∀ (a : Nat) (b : Byte) (s : State), s.status.busy = true → a < s.cfg.srcSize.toNat →
    hostAccess (.srcWrite a b) s = .next { s with status := { s.status with hzd := true }, response := none }
      ∧ hostAccess (.srcRead a) s
        = match s.src.read a with
          | some x => .next { s with response := some (x.setWidth 32) }
          | none => .fault .hostSrcUnwritten

/-- R287: a DST access while a command runs sets HZD; a write is dropped, a read returns 0x00 whatever the written mark. -/
def Obligations.DstAccessWhileBusy : Prop :=
  ∀ (a : Nat) (b : Byte) (s : State), s.status.busy = true → a < s.cfg.dstSize.toNat →
    hostAccess (.dstWrite a b) s = .next { s with status := { s.status with hzd := true }, response := none }
      ∧ hostAccess (.dstRead a) s
        = .next { s with status := { s.status with hzd := true }, response := some 0x00#32 }

/-- R68, R81, R82: in an idle block a host write to SRC or DST stores its byte and marks it, leaves every other byte alone
and changes nothing else, and a host read returns the byte stored or, for one never written, is a model-only fault. -/
def Obligations.MemoryAccessWhileIdle : Prop :=
  ∀ (a : Nat) (s : State), s.status.busy = false →
    (a < s.cfg.srcSize.toNat →
      (∀ b : Byte, ∃ m, hostAccess (.srcWrite a b) s = .next { s with src := m, response := none }
          ∧ ∀ k, m.read k = if k = a then some b else s.src.read k)
        ∧ hostAccess (.srcRead a) s
          = match s.src.read a with
            | some x => .next { s with response := some (x.setWidth 32) }
            | none => .fault .hostSrcUnwritten)
      ∧ (a < s.cfg.dstSize.toNat →
      (∀ b : Byte, ∃ m, hostAccess (.dstWrite a b) s = .next { s with dst := m, response := none }
          ∧ ∀ k, m.read k = if k = a then some b else s.dst.read k)
        ∧ hostAccess (.dstRead a) s
          = match s.dst.read a with
            | some x => .next { s with response := some (x.setWidth 32) }
            | none => .fault .hostDstUnwritten)

/-- R72, R91: a host read changes nothing but what it returns, but for a DST read while a command runs
(`DstAccessWhileBusy`). -/
def Obligations.ReadsHaveNoSideEffect : Prop :=
  ∀ (t : BusTxn) (s s' : State), hostAccess t s = .next s' →
    ((∃ off width, t = .regRead off width) ∨ (∃ a, t = .srcRead a) ∨ ((∃ a, t = .dstRead a) ∧ s.status.busy = false)) →
      s' = { s with response := s'.response } ∧ s'.response ≠ none

/-- R67, R97, R288, R289: while a command runs, no host access that is not a reset changes what its COMPLETE step reads or
the results that the host can read, and none ends it. -/
def Obligations.HostCannotDisturbARunningCommand : Prop :=
  ∀ (t : BusTxn) (s s' : State), s.status.busy = true → (HostReq.access t).keepsRunning = true →
    hostAccess t s = .next s' →
      s'.status.busy = true ∧ s'.cfg = s.cfg ∧ s'.latch = s.latch ∧ s'.src = s.src ∧ s'.dst = s.dst
        ∧ s'.outLen = s.outLen ∧ s'.sizeField = s.sizeField ∧ s'.auxCount = s.auxCount
        ∧ s'.status.errcode = s.status.errcode

/-- R65: BUSY rises only by a CTRL write with START, and falls only by COMPLETE, a soft reset or a power-on reset. -/
def Obligations.BusyTransitions : Prop :=
  ∀ s s' : State, step s = .next s' →
    (s.status.busy = false → s'.status.busy = true →
        ∃ v rest, s.host = .access (.regWrite 0x000#12 .w32 v) :: rest ∧ v.getLsbD 0 = true ∧ v.getLsbD 1 = false)
      ∧ (s.status.busy = true → s'.status.busy = false →
        completeDue s = true ∨ (∃ rest, s.host = .powerOn :: rest)
          ∨ ∃ v rest, s.host = .access (.regWrite 0x000#12 .w32 v) :: rest ∧ v.getLsbD 1 = true)

/-! ## Reset, the invariant, and runs -/

/-- R280: the state after power-on reset, and a power-on reset of any state, which also abandons a running command.
The latch, `response`, `delay` and what the reset keeps are the model's choices, log entries 1, 2, 10 and 11. -/
def Obligations.PowerOnReset : Prop :=
  (State.reset.irqEn = false ∧ State.reset.status.word = 0#32
      ∧ (∀ r ∈ operandRegisters, readReg State.reset r = 0#32)
      ∧ State.reset.outLen = 0#32 ∧ State.reset.sizeField = 0#32 ∧ State.reset.auxCount = 0#32
      ∧ (∀ i : Fin 10, State.reset.opt[i].len = 0 ∧ State.reset.opt[i].valid = false
          ∧ ∀ j : Fin 16, (State.reset.opt[i].bytes[j]).written = false)
      ∧ (∀ a : Nat, State.reset.src.read a = none ∧ State.reset.dst.read a = none)
      ∧ completeDue State.reset = false ∧ State.reset.irq = false)
    ∧ ∀ (s : State) (rest : List HostReq), s.host = .powerOn :: rest → completeDue s = false →
        step s = .next { State.reset with cfg := s.cfg, host := rest, draws := s.draws }

/-- The invariant holds after power-on reset, on the instance that the model takes there (log entry 1). -/
def Obligations.InvariantAtReset : Prop := State.reset.Inv

/-- Every step keeps the invariant: a legal instance, memories in canonical form and inside their sizes, DONE and ERR never
both 1 (R35), ERRCODE in step with them, LEN 0 in an entry never loaded, and OUT_LEN within DST. -/
def Obligations.EveryStepKeepsTheInvariant : Prop := ∀ s s' : State, s.Inv → step s = .next s' → s'.Inv

/-- R291: COMPLETE is always taken in the end. A host that polls waits at most `delay` reads, and then the running command
completes as it would have at once. The count of reads is the model's scheduling, log entry 3. -/
def Obligations.PollingReachesCompletion : Prop :=
  ∀ (s : State) (rest : List HostReq), s.status.busy = true → s.host = .wait :: rest →
    sysRun (s.delay + 1) s
      = complete { s with delay := 0, response := if s.delay = 0 then s.response else some s.status.word }

/-- R67, R97, R288: however many host accesses the schedule lets come before COMPLETE, none being a reset, the running command
still computes the same result into the same DST. The schedule is the model's, log entry 3. -/
def Obligations.ResultIsIndependentOfTheSchedule : Prop :=
  ∀ (n : Nat) (s s' : State), s.status.busy = true → n ≤ s.delay → n ≤ s.host.length →
    (∀ r ∈ s.host.take n, r.keepsRunning = true) → sysRun n s = .next s' →
      s'.status.busy = true
        ∧ latchedResult s'.cfg s'.latch s'.src = latchedResult s.cfg s.latch s.src
        ∧ s'.dst = s.dst
        ∧ ∀ t t', complete s = .next t → complete s' = .next t' →
            t'.dst = t.dst ∧ t'.outLen = t.outLen ∧ t'.sizeField = t.sizeField ∧ t'.auxCount = t.auxCount
end

