-- ==== Sys2Proof/Laws/Memory.lean ====
section
/-!
SUPPORT. The laws of the byte memories: a read after a write, the other addresses, and the canonical form that every
operation keeps (spec 20_memory.md R87, R88).
-/
namespace Sys2Proof.Machine

variable {m : Memory} {a k size : Nat} {b : Byte} {bs : List Byte}

theorem Memory.mem_write {c : Host.Cell} (h : c ∈ m.write a b) : c = (a, b) ∨ c ∈ m := by
  induction m with
  | nil => simpa [Memory.write] using h
  | cons d m ih =>
    obtain ⟨k, v⟩ := d
    simp only [Memory.write] at h
    split at h
    · simpa using h
    · split at h
      · simp only [List.mem_cons] at h ⊢; tauto
      · simp only [List.mem_cons] at h ⊢
        rcases h with h | h
        · exact .inr (.inl h)
        · rcases ih h with h | h
          · exact .inl h
          · exact .inr (.inr h)

theorem Memory.wf_write (h : m.wf) : (m.write a b).wf := by
  induction m with
  | nil => simp [Memory.write]
  | cons d m ih =>
    obtain ⟨k, v⟩ := d
    have hk := List.pairwise_cons.mp h
    simp only [Memory.write]
    split
    · rename_i hlt
      refine List.pairwise_cons.mpr ⟨?_, h⟩
      intro c hc
      rcases List.mem_cons.mp hc with rfl | hc
      · exact hlt
      · exact lt_trans hlt (hk.1 c hc)
    · split
      · rename_i heq
        subst heq
        exact List.pairwise_cons.mpr ⟨hk.1, hk.2⟩
      · refine List.pairwise_cons.mpr ⟨?_, ih hk.2⟩
        intro c hc
        rcases Memory.mem_write hc with rfl | hc
        · show k < a
          omega
        · exact hk.1 c hc

theorem Memory.within_write (h : m.within size) (ha : a < size) : (m.write a b).within size := by
  intro c hc
  rcases Memory.mem_write hc with rfl | hc
  · exact ha
  · exact h c hc

theorem Memory.read_eq_none_of_lt (h : ∀ c ∈ m, k < c.1) : m.read k = none := by
  induction m with
  | nil => rfl
  | cons d m ih =>
    obtain ⟨j, v⟩ := d
    have hj : k < j := h (j, v) (by simp)
    simp only [Memory.read, if_neg (Nat.ne_of_gt hj)]
    exact ih fun c hc => h c (by simp [hc])

/-- A read after a write: the byte written at its address, the old byte elsewhere. -/
theorem Memory.read_write : (m.write a b).read k = if k = a then some b else m.read k := by
  induction m with
  | nil => simp only [Memory.write, Memory.read, eq_comm]
  | cons d m ih =>
    obtain ⟨j, v⟩ := d
    simp only [Memory.write]
    split
    · simp only [Memory.read, eq_comm]
    · split
      · rename_i heq
        subst heq
        simp only [Memory.read]
        by_cases hk : a = k
        · simp [hk]
        · simp [hk, Ne.symm hk]
      · rename_i hne
        simp only [Memory.read, ih]
        by_cases hk : j = k
        · subst hk
          simp [Ne.symm hne]
        · simp [hk]

theorem Memory.wf_writeBytes (h : m.wf) : (m.writeBytes a bs).wf := by
  induction bs generalizing m a with
  | nil => exact h
  | cons b bs ih => exact ih (Memory.wf_write h)

theorem Memory.within_writeBytes (h : m.within size) (ha : a + bs.length ≤ size) :
    (m.writeBytes a bs).within size := by
  induction bs generalizing m a with
  | nil => exact h
  | cons b bs ih =>
    simp only [List.length_cons] at ha
    exact ih (Memory.within_write h (by omega)) (by omega)

/-- Writing a list of bytes leaves every address outside their range as it was (R88). -/
theorem Memory.read_writeBytes_outside (h : k < a ∨ a + bs.length ≤ k) :
    (m.writeBytes a bs).read k = m.read k := by
  induction bs generalizing m a with
  | nil => rfl
  | cons b bs ih =>
    simp only [List.length_cons] at h
    simp only [Memory.writeBytes]
    rw [ih (by omega), Memory.read_write, if_neg (by omega)]

/-- Writing a list of bytes stores the `i`-th at the `i`-th address of their range (R88). -/
theorem Memory.read_writeBytes_inside {i : Nat} (h : i < bs.length) :
    (m.writeBytes a bs).read (a + i) = some bs[i] := by
  induction bs generalizing m a i with
  | nil => simp at h
  | cons b bs ih =>
    simp only [Memory.writeBytes]
    cases i with
    | zero => rw [Memory.read_writeBytes_outside (by omega), Memory.read_write]; simp
    | succ i =>
      have := @ih (m.write a b) (a + 1) i (by simpa using h)
      rw [show a + (i + 1) = a + 1 + i by omega, this]
      simp

/-- A range that reads gives one byte for each address of it (R87). -/
theorem Memory.length_readBytes {n : Nat} (h : m.readBytes a n = some bs) : bs.length = n := by
  induction n generalizing a bs with
  | zero => simp only [Memory.readBytes, Option.some.injEq] at h; simp [← h]
  | succ n ih =>
    simp only [Memory.readBytes] at h
    split at h
    · cases h
    · split at h
      · cases h
      · rename_i hr
        cases h
        simp [ih hr]

/-- A range that reads gives at each place the byte of its address (R87). -/
theorem Memory.read_of_readBytes {n i : Nat} (h : m.readBytes a n = some bs) (hi : i < n) :
    m.read (a + i) = bs[i]? := by
  induction n generalizing a bs i with
  | zero => omega
  | succ n ih =>
    simp only [Memory.readBytes] at h
    split at h
    · cases h
    · rename_i b0 hb
      split at h
      · cases h
      · rename_i bs0 hr
        cases h
        cases i with
        | zero => simpa using hb
        | succ i =>
          rw [show a + (i + 1) = a + 1 + i by omega, ih hr (by omega)]
          simp

/-- A list whose bytes are those that the memory reads is what `readBytes` answers. -/
theorem Memory.readBytes_of_read {m : Memory} {bs : List Byte} {a : Nat} (h : ∀ k < bs.length, m.read (a + k) = bs[k]?) :
    m.readBytes a bs.length = some bs := by
  induction bs generalizing a with
  | nil => rfl
  | cons b bs ih =>
    have hb : m.read a = some b := by simpa using h 0 (by simp)
    have hbs : m.readBytes (a + 1) bs.length = some bs := by
      refine ih fun k hk => ?_
      have := h (k + 1) (by simpa using hk)
      rwa [List.getElem?_cons_succ, show a + (k + 1) = a + 1 + k by omega] at this
    simp only [List.length_cons, Memory.readBytes, hb, hbs]

/-- A range reads exactly when each of its bytes does (R87). -/
theorem Memory.readBytes_eq_none {n : Nat} (h : m.readBytes a n = none) : ∃ i < n, m.read (a + i) = none := by
  induction n generalizing a with
  | zero => simp [Memory.readBytes] at h
  | succ n ih =>
    simp only [Memory.readBytes] at h
    split at h
    · rename_i hn
      exact ⟨0, by omega, by simpa using hn⟩
    · split at h
      · rename_i hr
        obtain ⟨i, hi, hn⟩ := ih hr
        exact ⟨i + 1, by omega, by rw [show a + (i + 1) = a + 1 + i by omega]; exact hn⟩
      · cases h

end Sys2Proof.Machine
end

