-- ==== Sys2Proof/Laws/State.lean ====
section
/-!
SUPPORT. What each state update does to each field: one lemma per field per update, true by rfl, so that no proof
unfolds a record update.
-/
namespace Sys2Proof.Machine

@[simp] theorem commitErr_cfg (code : ErrCode) (s : State) : (commitErr code s).cfg = s.cfg := rfl
@[simp] theorem commitErr_irqEn (code : ErrCode) (s : State) : (commitErr code s).irqEn = s.irqEn := rfl
@[simp] theorem commitErr_status (code : ErrCode) (s : State) : (commitErr code s).status = s.status.completedErr code := rfl
@[simp] theorem commitErr_ops (code : ErrCode) (s : State) : (commitErr code s).ops = s.ops := rfl
@[simp] theorem commitErr_opt (code : ErrCode) (s : State) : (commitErr code s).opt = s.opt := rfl
@[simp] theorem commitErr_outLen (code : ErrCode) (s : State) : (commitErr code s).outLen = 0#32 := rfl
@[simp] theorem commitErr_sizeField (code : ErrCode) (s : State) : (commitErr code s).sizeField = 0#32 := rfl
@[simp] theorem commitErr_auxCount (code : ErrCode) (s : State) : (commitErr code s).auxCount = 0#32 := rfl
@[simp] theorem commitErr_latch (code : ErrCode) (s : State) : (commitErr code s).latch = s.latch := rfl
@[simp] theorem commitErr_src (code : ErrCode) (s : State) : (commitErr code s).src = s.src := rfl
@[simp] theorem commitErr_dst (code : ErrCode) (s : State) : (commitErr code s).dst = s.dst := rfl
@[simp] theorem commitErr_host (code : ErrCode) (s : State) : (commitErr code s).host = s.host := rfl
@[simp] theorem commitErr_response (code : ErrCode) (s : State) : (commitErr code s).response = s.response := rfl
@[simp] theorem commitErr_delay (code : ErrCode) (s : State) : (commitErr code s).delay = s.delay := rfl
@[simp] theorem commitErr_draws (code : ErrCode) (s : State) : (commitErr code s).draws = s.draws := rfl

@[simp] theorem commitOk_cfg (out : List Byte) (size aux : Nat) (s : State) : (commitOk out size aux s).cfg = s.cfg := rfl
@[simp] theorem commitOk_irqEn (out : List Byte) (size aux : Nat) (s : State) : (commitOk out size aux s).irqEn = s.irqEn := rfl
@[simp] theorem commitOk_status (out : List Byte) (size aux : Nat) (s : State) : (commitOk out size aux s).status = s.status.completedOk := rfl
@[simp] theorem commitOk_ops (out : List Byte) (size aux : Nat) (s : State) : (commitOk out size aux s).ops = s.ops := rfl
@[simp] theorem commitOk_opt (out : List Byte) (size aux : Nat) (s : State) : (commitOk out size aux s).opt = s.opt := rfl
@[simp] theorem commitOk_outLen (out : List Byte) (size aux : Nat) (s : State) : (commitOk out size aux s).outLen = BitVec.ofNat 32 out.length := rfl
@[simp] theorem commitOk_sizeField (out : List Byte) (size aux : Nat) (s : State) : (commitOk out size aux s).sizeField = BitVec.ofNat 32 size := rfl
@[simp] theorem commitOk_auxCount (out : List Byte) (size aux : Nat) (s : State) : (commitOk out size aux s).auxCount = BitVec.ofNat 32 aux := rfl
@[simp] theorem commitOk_latch (out : List Byte) (size aux : Nat) (s : State) : (commitOk out size aux s).latch = s.latch := rfl
@[simp] theorem commitOk_src (out : List Byte) (size aux : Nat) (s : State) : (commitOk out size aux s).src = s.src := rfl
@[simp] theorem commitOk_dst (out : List Byte) (size aux : Nat) (s : State) : (commitOk out size aux s).dst = s.dst.writeBytes s.latch.ops.dstAddr.toNat out := rfl
@[simp] theorem commitOk_host (out : List Byte) (size aux : Nat) (s : State) : (commitOk out size aux s).host = s.host := rfl
@[simp] theorem commitOk_response (out : List Byte) (size aux : Nat) (s : State) : (commitOk out size aux s).response = s.response := rfl
@[simp] theorem commitOk_delay (out : List Byte) (size aux : Nat) (s : State) : (commitOk out size aux s).delay = s.delay := rfl
@[simp] theorem commitOk_draws (out : List Byte) (size aux : Nat) (s : State) : (commitOk out size aux s).draws = s.draws := rfl

@[simp] theorem acknowledge_cfg (v : Word) (s : State) : (acknowledge v s).cfg = s.cfg := rfl
@[simp] theorem acknowledge_irqEn (v : Word) (s : State) : (acknowledge v s).irqEn = s.irqEn := rfl
@[simp] theorem acknowledge_status (v : Word) (s : State) : (acknowledge v s).status = s.status.writeOneToClear v := rfl
@[simp] theorem acknowledge_ops (v : Word) (s : State) : (acknowledge v s).ops = s.ops := rfl
@[simp] theorem acknowledge_opt (v : Word) (s : State) : (acknowledge v s).opt = s.opt := rfl
@[simp] theorem acknowledge_outLen (v : Word) (s : State) : (acknowledge v s).outLen = s.outLen := rfl
@[simp] theorem acknowledge_sizeField (v : Word) (s : State) : (acknowledge v s).sizeField = s.sizeField := rfl
@[simp] theorem acknowledge_auxCount (v : Word) (s : State) : (acknowledge v s).auxCount = s.auxCount := rfl
@[simp] theorem acknowledge_latch (v : Word) (s : State) : (acknowledge v s).latch = s.latch := rfl
@[simp] theorem acknowledge_src (v : Word) (s : State) : (acknowledge v s).src = s.src := rfl
@[simp] theorem acknowledge_dst (v : Word) (s : State) : (acknowledge v s).dst = s.dst := rfl
@[simp] theorem acknowledge_host (v : Word) (s : State) : (acknowledge v s).host = s.host := rfl
@[simp] theorem acknowledge_response (v : Word) (s : State) : (acknowledge v s).response = s.response := rfl
@[simp] theorem acknowledge_delay (v : Word) (s : State) : (acknowledge v s).delay = s.delay := rfl
@[simp] theorem acknowledge_draws (v : Word) (s : State) : (acknowledge v s).draws = s.draws := rfl

@[simp] theorem setHzd_cfg (s : State) : (s.setHzd).cfg = s.cfg := rfl
@[simp] theorem setHzd_irqEn (s : State) : (s.setHzd).irqEn = s.irqEn := rfl
@[simp] theorem setHzd_status (s : State) : (s.setHzd).status = { s.status with hzd := true } := rfl
@[simp] theorem setHzd_ops (s : State) : (s.setHzd).ops = s.ops := rfl
@[simp] theorem setHzd_opt (s : State) : (s.setHzd).opt = s.opt := rfl
@[simp] theorem setHzd_outLen (s : State) : (s.setHzd).outLen = s.outLen := rfl
@[simp] theorem setHzd_sizeField (s : State) : (s.setHzd).sizeField = s.sizeField := rfl
@[simp] theorem setHzd_auxCount (s : State) : (s.setHzd).auxCount = s.auxCount := rfl
@[simp] theorem setHzd_latch (s : State) : (s.setHzd).latch = s.latch := rfl
@[simp] theorem setHzd_src (s : State) : (s.setHzd).src = s.src := rfl
@[simp] theorem setHzd_dst (s : State) : (s.setHzd).dst = s.dst := rfl
@[simp] theorem setHzd_host (s : State) : (s.setHzd).host = s.host := rfl
@[simp] theorem setHzd_response (s : State) : (s.setHzd).response = s.response := rfl
@[simp] theorem setHzd_delay (s : State) : (s.setHzd).delay = s.delay := rfl
@[simp] theorem setHzd_draws (s : State) : (s.setHzd).draws = s.draws := rfl

@[simp] theorem startAfter_cfg (d : Nat) (s : State) : (startAfter d s).cfg = s.cfg := rfl
@[simp] theorem startAfter_irqEn (d : Nat) (s : State) : (startAfter d s).irqEn = s.irqEn := rfl
@[simp] theorem startAfter_status (d : Nat) (s : State) : (startAfter d s).status = s.status.started := rfl
@[simp] theorem startAfter_ops (d : Nat) (s : State) : (startAfter d s).ops = s.ops := rfl
@[simp] theorem startAfter_opt (d : Nat) (s : State) : (startAfter d s).opt = s.opt := rfl
@[simp] theorem startAfter_outLen (d : Nat) (s : State) : (startAfter d s).outLen = s.outLen := rfl
@[simp] theorem startAfter_sizeField (d : Nat) (s : State) : (startAfter d s).sizeField = s.sizeField := rfl
@[simp] theorem startAfter_auxCount (d : Nat) (s : State) : (startAfter d s).auxCount = s.auxCount := rfl
@[simp] theorem startAfter_latch (d : Nat) (s : State) : (startAfter d s).latch = { ops := s.ops, opt := s.opt } := rfl
@[simp] theorem startAfter_src (d : Nat) (s : State) : (startAfter d s).src = s.src := rfl
@[simp] theorem startAfter_dst (d : Nat) (s : State) : (startAfter d s).dst = s.dst := rfl
@[simp] theorem startAfter_host (d : Nat) (s : State) : (startAfter d s).host = s.host := rfl
@[simp] theorem startAfter_response (d : Nat) (s : State) : (startAfter d s).response = s.response := rfl
@[simp] theorem startAfter_delay (d : Nat) (s : State) : (startAfter d s).delay = d := rfl
@[simp] theorem startAfter_draws (d : Nat) (s : State) : (startAfter d s).draws = s.draws := rfl

@[simp] theorem start_cfg (s : State) : (start s).cfg = s.cfg := rfl
@[simp] theorem start_irqEn (s : State) : (start s).irqEn = s.irqEn := rfl
@[simp] theorem start_status (s : State) : (start s).status = s.status.started := rfl
@[simp] theorem start_ops (s : State) : (start s).ops = s.ops := rfl
@[simp] theorem start_opt (s : State) : (start s).opt = s.opt := rfl
@[simp] theorem start_outLen (s : State) : (start s).outLen = s.outLen := rfl
@[simp] theorem start_sizeField (s : State) : (start s).sizeField = s.sizeField := rfl
@[simp] theorem start_auxCount (s : State) : (start s).auxCount = s.auxCount := rfl
@[simp] theorem start_latch (s : State) : (start s).latch = { ops := s.ops, opt := s.opt } := rfl
@[simp] theorem start_src (s : State) : (start s).src = s.src := rfl
@[simp] theorem start_dst (s : State) : (start s).dst = s.dst := rfl
@[simp] theorem start_host (s : State) : (start s).host = s.host := rfl
@[simp] theorem start_response (s : State) : (start s).response = s.response := rfl
@[simp] theorem start_delay (s : State) : (start s).delay = Config.freeLatency s.draws := rfl
@[simp] theorem start_draws (s : State) : (start s).draws = s.draws + 1 := rfl

@[simp] theorem writePrefix_cfg (out : List Byte) (k : Nat) (s : State) : (writePrefix out k s).cfg = s.cfg := rfl
@[simp] theorem writePrefix_irqEn (out : List Byte) (k : Nat) (s : State) : (writePrefix out k s).irqEn = s.irqEn := rfl
@[simp] theorem writePrefix_status (out : List Byte) (k : Nat) (s : State) : (writePrefix out k s).status = s.status := rfl
@[simp] theorem writePrefix_ops (out : List Byte) (k : Nat) (s : State) : (writePrefix out k s).ops = s.ops := rfl
@[simp] theorem writePrefix_opt (out : List Byte) (k : Nat) (s : State) : (writePrefix out k s).opt = s.opt := rfl
@[simp] theorem writePrefix_outLen (out : List Byte) (k : Nat) (s : State) : (writePrefix out k s).outLen = s.outLen := rfl
@[simp] theorem writePrefix_sizeField (out : List Byte) (k : Nat) (s : State) : (writePrefix out k s).sizeField = s.sizeField := rfl
@[simp] theorem writePrefix_auxCount (out : List Byte) (k : Nat) (s : State) : (writePrefix out k s).auxCount = s.auxCount := rfl
@[simp] theorem writePrefix_latch (out : List Byte) (k : Nat) (s : State) : (writePrefix out k s).latch = s.latch := rfl
@[simp] theorem writePrefix_src (out : List Byte) (k : Nat) (s : State) : (writePrefix out k s).src = s.src := rfl
@[simp] theorem writePrefix_dst (out : List Byte) (k : Nat) (s : State) : (writePrefix out k s).dst = s.dst.writeBytes s.latch.ops.dstAddr.toNat (out.take k) := rfl
@[simp] theorem writePrefix_host (out : List Byte) (k : Nat) (s : State) : (writePrefix out k s).host = s.host := rfl
@[simp] theorem writePrefix_response (out : List Byte) (k : Nat) (s : State) : (writePrefix out k s).response = s.response := rfl
@[simp] theorem writePrefix_delay (out : List Byte) (k : Nat) (s : State) : (writePrefix out k s).delay = s.delay := rfl
@[simp] theorem writePrefix_draws (out : List Byte) (k : Nat) (s : State) : (writePrefix out k s).draws = s.draws := rfl

@[simp] theorem clearRegisters_cfg (s : State) : (clearRegisters s).cfg = s.cfg := rfl
@[simp] theorem clearRegisters_irqEn (s : State) : (clearRegisters s).irqEn = false := rfl
@[simp] theorem clearRegisters_status (s : State) : (clearRegisters s).status = Status.reset := rfl
@[simp] theorem clearRegisters_ops (s : State) : (clearRegisters s).ops = OperandRegs.reset := rfl
@[simp] theorem clearRegisters_opt (s : State) : (clearRegisters s).opt = s.opt := rfl
@[simp] theorem clearRegisters_outLen (s : State) : (clearRegisters s).outLen = 0#32 := rfl
@[simp] theorem clearRegisters_sizeField (s : State) : (clearRegisters s).sizeField = 0#32 := rfl
@[simp] theorem clearRegisters_auxCount (s : State) : (clearRegisters s).auxCount = 0#32 := rfl
@[simp] theorem clearRegisters_latch (s : State) : (clearRegisters s).latch = s.latch := rfl
@[simp] theorem clearRegisters_src (s : State) : (clearRegisters s).src = s.src := rfl
@[simp] theorem clearRegisters_dst (s : State) : (clearRegisters s).dst = s.dst := rfl
@[simp] theorem clearRegisters_host (s : State) : (clearRegisters s).host = s.host := rfl
@[simp] theorem clearRegisters_response (s : State) : (clearRegisters s).response = s.response := rfl
@[simp] theorem clearRegisters_delay (s : State) : (clearRegisters s).delay = s.delay := rfl
@[simp] theorem clearRegisters_draws (s : State) : (clearRegisters s).draws = s.draws := rfl

@[simp] theorem powerOnReset_cfg (s : State) : (powerOnReset s).cfg = s.cfg := rfl
@[simp] theorem powerOnReset_irqEn (s : State) : (powerOnReset s).irqEn = State.reset.irqEn := rfl
@[simp] theorem powerOnReset_status (s : State) : (powerOnReset s).status = State.reset.status := rfl
@[simp] theorem powerOnReset_ops (s : State) : (powerOnReset s).ops = State.reset.ops := rfl
@[simp] theorem powerOnReset_opt (s : State) : (powerOnReset s).opt = State.reset.opt := rfl
@[simp] theorem powerOnReset_outLen (s : State) : (powerOnReset s).outLen = State.reset.outLen := rfl
@[simp] theorem powerOnReset_sizeField (s : State) : (powerOnReset s).sizeField = State.reset.sizeField := rfl
@[simp] theorem powerOnReset_auxCount (s : State) : (powerOnReset s).auxCount = State.reset.auxCount := rfl
@[simp] theorem powerOnReset_latch (s : State) : (powerOnReset s).latch = State.reset.latch := rfl
@[simp] theorem powerOnReset_src (s : State) : (powerOnReset s).src = State.reset.src := rfl
@[simp] theorem powerOnReset_dst (s : State) : (powerOnReset s).dst = State.reset.dst := rfl
@[simp] theorem powerOnReset_host (s : State) : (powerOnReset s).host = s.host := rfl
@[simp] theorem powerOnReset_response (s : State) : (powerOnReset s).response = State.reset.response := rfl
@[simp] theorem powerOnReset_delay (s : State) : (powerOnReset s).delay = State.reset.delay := rfl
@[simp] theorem powerOnReset_draws (s : State) : (powerOnReset s).draws = s.draws := rfl

@[simp] theorem withOps_cfg (s : State) (ops : OperandRegs) : (s.withOps ops).cfg = s.cfg := rfl
@[simp] theorem withOps_irqEn (s : State) (ops : OperandRegs) : (s.withOps ops).irqEn = s.irqEn := rfl
@[simp] theorem withOps_status (s : State) (ops : OperandRegs) : (s.withOps ops).status = s.status := rfl
@[simp] theorem withOps_ops (s : State) (ops : OperandRegs) : (s.withOps ops).ops = ops := rfl
@[simp] theorem withOps_opt (s : State) (ops : OperandRegs) : (s.withOps ops).opt = s.opt := rfl
@[simp] theorem withOps_outLen (s : State) (ops : OperandRegs) : (s.withOps ops).outLen = s.outLen := rfl
@[simp] theorem withOps_sizeField (s : State) (ops : OperandRegs) : (s.withOps ops).sizeField = s.sizeField := rfl
@[simp] theorem withOps_auxCount (s : State) (ops : OperandRegs) : (s.withOps ops).auxCount = s.auxCount := rfl
@[simp] theorem withOps_latch (s : State) (ops : OperandRegs) : (s.withOps ops).latch = s.latch := rfl
@[simp] theorem withOps_src (s : State) (ops : OperandRegs) : (s.withOps ops).src = s.src := rfl
@[simp] theorem withOps_dst (s : State) (ops : OperandRegs) : (s.withOps ops).dst = s.dst := rfl
@[simp] theorem withOps_host (s : State) (ops : OperandRegs) : (s.withOps ops).host = s.host := rfl
@[simp] theorem withOps_response (s : State) (ops : OperandRegs) : (s.withOps ops).response = s.response := rfl
@[simp] theorem withOps_delay (s : State) (ops : OperandRegs) : (s.withOps ops).delay = s.delay := rfl
@[simp] theorem withOps_draws (s : State) (ops : OperandRegs) : (s.withOps ops).draws = s.draws := rfl

@[simp] theorem withEntry_cfg (s : State) (i : Fin 10) (e : OptEntry) : (s.withEntry i e).cfg = s.cfg := rfl
@[simp] theorem withEntry_irqEn (s : State) (i : Fin 10) (e : OptEntry) : (s.withEntry i e).irqEn = s.irqEn := rfl
@[simp] theorem withEntry_status (s : State) (i : Fin 10) (e : OptEntry) : (s.withEntry i e).status = s.status := rfl
@[simp] theorem withEntry_ops (s : State) (i : Fin 10) (e : OptEntry) : (s.withEntry i e).ops = s.ops := rfl
@[simp] theorem withEntry_opt (s : State) (i : Fin 10) (e : OptEntry) : (s.withEntry i e).opt = s.opt.set i e := rfl
@[simp] theorem withEntry_outLen (s : State) (i : Fin 10) (e : OptEntry) : (s.withEntry i e).outLen = s.outLen := rfl
@[simp] theorem withEntry_sizeField (s : State) (i : Fin 10) (e : OptEntry) : (s.withEntry i e).sizeField = s.sizeField := rfl
@[simp] theorem withEntry_auxCount (s : State) (i : Fin 10) (e : OptEntry) : (s.withEntry i e).auxCount = s.auxCount := rfl
@[simp] theorem withEntry_latch (s : State) (i : Fin 10) (e : OptEntry) : (s.withEntry i e).latch = s.latch := rfl
@[simp] theorem withEntry_src (s : State) (i : Fin 10) (e : OptEntry) : (s.withEntry i e).src = s.src := rfl
@[simp] theorem withEntry_dst (s : State) (i : Fin 10) (e : OptEntry) : (s.withEntry i e).dst = s.dst := rfl
@[simp] theorem withEntry_host (s : State) (i : Fin 10) (e : OptEntry) : (s.withEntry i e).host = s.host := rfl
@[simp] theorem withEntry_response (s : State) (i : Fin 10) (e : OptEntry) : (s.withEntry i e).response = s.response := rfl
@[simp] theorem withEntry_delay (s : State) (i : Fin 10) (e : OptEntry) : (s.withEntry i e).delay = s.delay := rfl
@[simp] theorem withEntry_draws (s : State) (i : Fin 10) (e : OptEntry) : (s.withEntry i e).draws = s.draws := rfl

@[simp] theorem withIrqEn_cfg (s : State) (b : Bool) : (s.withIrqEn b).cfg = s.cfg := rfl
@[simp] theorem withIrqEn_irqEn (s : State) (b : Bool) : (s.withIrqEn b).irqEn = b := rfl
@[simp] theorem withIrqEn_status (s : State) (b : Bool) : (s.withIrqEn b).status = s.status := rfl
@[simp] theorem withIrqEn_ops (s : State) (b : Bool) : (s.withIrqEn b).ops = s.ops := rfl
@[simp] theorem withIrqEn_opt (s : State) (b : Bool) : (s.withIrqEn b).opt = s.opt := rfl
@[simp] theorem withIrqEn_outLen (s : State) (b : Bool) : (s.withIrqEn b).outLen = s.outLen := rfl
@[simp] theorem withIrqEn_sizeField (s : State) (b : Bool) : (s.withIrqEn b).sizeField = s.sizeField := rfl
@[simp] theorem withIrqEn_auxCount (s : State) (b : Bool) : (s.withIrqEn b).auxCount = s.auxCount := rfl
@[simp] theorem withIrqEn_latch (s : State) (b : Bool) : (s.withIrqEn b).latch = s.latch := rfl
@[simp] theorem withIrqEn_src (s : State) (b : Bool) : (s.withIrqEn b).src = s.src := rfl
@[simp] theorem withIrqEn_dst (s : State) (b : Bool) : (s.withIrqEn b).dst = s.dst := rfl
@[simp] theorem withIrqEn_host (s : State) (b : Bool) : (s.withIrqEn b).host = s.host := rfl
@[simp] theorem withIrqEn_response (s : State) (b : Bool) : (s.withIrqEn b).response = s.response := rfl
@[simp] theorem withIrqEn_delay (s : State) (b : Bool) : (s.withIrqEn b).delay = s.delay := rfl
@[simp] theorem withIrqEn_draws (s : State) (b : Bool) : (s.withIrqEn b).draws = s.draws := rfl

@[simp] theorem respond_cfg (s : State) (r : Option Word) : (s.respond r).cfg = s.cfg := rfl
@[simp] theorem respond_irqEn (s : State) (r : Option Word) : (s.respond r).irqEn = s.irqEn := rfl
@[simp] theorem respond_status (s : State) (r : Option Word) : (s.respond r).status = s.status := rfl
@[simp] theorem respond_ops (s : State) (r : Option Word) : (s.respond r).ops = s.ops := rfl
@[simp] theorem respond_opt (s : State) (r : Option Word) : (s.respond r).opt = s.opt := rfl
@[simp] theorem respond_outLen (s : State) (r : Option Word) : (s.respond r).outLen = s.outLen := rfl
@[simp] theorem respond_sizeField (s : State) (r : Option Word) : (s.respond r).sizeField = s.sizeField := rfl
@[simp] theorem respond_auxCount (s : State) (r : Option Word) : (s.respond r).auxCount = s.auxCount := rfl
@[simp] theorem respond_latch (s : State) (r : Option Word) : (s.respond r).latch = s.latch := rfl
@[simp] theorem respond_src (s : State) (r : Option Word) : (s.respond r).src = s.src := rfl
@[simp] theorem respond_dst (s : State) (r : Option Word) : (s.respond r).dst = s.dst := rfl
@[simp] theorem respond_host (s : State) (r : Option Word) : (s.respond r).host = s.host := rfl
@[simp] theorem respond_response (s : State) (r : Option Word) : (s.respond r).response = r := rfl
@[simp] theorem respond_delay (s : State) (r : Option Word) : (s.respond r).delay = s.delay := rfl
@[simp] theorem respond_draws (s : State) (r : Option Word) : (s.respond r).draws = s.draws := rfl

@[simp] theorem hostTurn_cfg (rest : List HostReq) (s : State) : (hostTurn rest s).cfg = s.cfg := rfl
@[simp] theorem hostTurn_irqEn (rest : List HostReq) (s : State) : (hostTurn rest s).irqEn = s.irqEn := rfl
@[simp] theorem hostTurn_status (rest : List HostReq) (s : State) : (hostTurn rest s).status = s.status := rfl
@[simp] theorem hostTurn_ops (rest : List HostReq) (s : State) : (hostTurn rest s).ops = s.ops := rfl
@[simp] theorem hostTurn_opt (rest : List HostReq) (s : State) : (hostTurn rest s).opt = s.opt := rfl
@[simp] theorem hostTurn_outLen (rest : List HostReq) (s : State) : (hostTurn rest s).outLen = s.outLen := rfl
@[simp] theorem hostTurn_sizeField (rest : List HostReq) (s : State) : (hostTurn rest s).sizeField = s.sizeField := rfl
@[simp] theorem hostTurn_auxCount (rest : List HostReq) (s : State) : (hostTurn rest s).auxCount = s.auxCount := rfl
@[simp] theorem hostTurn_latch (rest : List HostReq) (s : State) : (hostTurn rest s).latch = s.latch := rfl
@[simp] theorem hostTurn_src (rest : List HostReq) (s : State) : (hostTurn rest s).src = s.src := rfl
@[simp] theorem hostTurn_dst (rest : List HostReq) (s : State) : (hostTurn rest s).dst = s.dst := rfl
@[simp] theorem hostTurn_host (rest : List HostReq) (s : State) : (hostTurn rest s).host = rest := rfl
@[simp] theorem hostTurn_response (rest : List HostReq) (s : State) : (hostTurn rest s).response = s.response := rfl
@[simp] theorem hostTurn_delay (rest : List HostReq) (s : State) : (hostTurn rest s).delay = s.delay - 1 := rfl
@[simp] theorem hostTurn_draws (rest : List HostReq) (s : State) : (hostTurn rest s).draws = s.draws := rfl

@[simp] theorem Status.started_busy (st : Status) : (st.started).busy = true := rfl
@[simp] theorem Status.started_done (st : Status) : (st.started).done = false := rfl
@[simp] theorem Status.started_err (st : Status) : (st.started).err = false := rfl
@[simp] theorem Status.started_hzd (st : Status) : (st.started).hzd = st.hzd := rfl
@[simp] theorem Status.started_errcode (st : Status) : (st.started).errcode = .noError := rfl

@[simp] theorem Status.completedOk_busy (st : Status) : (st.completedOk).busy = false := rfl
@[simp] theorem Status.completedOk_done (st : Status) : (st.completedOk).done = true := rfl
@[simp] theorem Status.completedOk_err (st : Status) : (st.completedOk).err = st.err := rfl
@[simp] theorem Status.completedOk_hzd (st : Status) : (st.completedOk).hzd = st.hzd := rfl
@[simp] theorem Status.completedOk_errcode (st : Status) : (st.completedOk).errcode = st.errcode := rfl

@[simp] theorem Status.completedErr_busy (st : Status) (code : ErrCode) : (st.completedErr code).busy = false := rfl
@[simp] theorem Status.completedErr_done (st : Status) (code : ErrCode) : (st.completedErr code).done = st.done := rfl
@[simp] theorem Status.completedErr_err (st : Status) (code : ErrCode) : (st.completedErr code).err = true := rfl
@[simp] theorem Status.completedErr_hzd (st : Status) (code : ErrCode) : (st.completedErr code).hzd = st.hzd := rfl
@[simp] theorem Status.completedErr_errcode (st : Status) (code : ErrCode) : (st.completedErr code).errcode = code := rfl

@[simp] theorem Status.writeOneToClear_busy (st : Status) (v : Word) : (st.writeOneToClear v).busy = st.busy := rfl
@[simp] theorem Status.writeOneToClear_done (st : Status) (v : Word) : (st.writeOneToClear v).done = (st.done && !v.getLsbD 1) := rfl
@[simp] theorem Status.writeOneToClear_err (st : Status) (v : Word) : (st.writeOneToClear v).err = (st.err && !v.getLsbD 2) := rfl
@[simp] theorem Status.writeOneToClear_hzd (st : Status) (v : Word) : (st.writeOneToClear v).hzd = (st.hzd && !v.getLsbD 3) := rfl
@[simp] theorem Status.writeOneToClear_errcode (st : Status) (v : Word) : (st.writeOneToClear v).errcode = st.errcode := rfl

@[simp] theorem Status.reset_busy : (Status.reset).busy = false := rfl
@[simp] theorem Status.reset_done : (Status.reset).done = false := rfl
@[simp] theorem Status.reset_err : (Status.reset).err = false := rfl
@[simp] theorem Status.reset_hzd : (Status.reset).hzd = false := rfl
@[simp] theorem Status.reset_errcode : (Status.reset).errcode = .noError := rfl

end Sys2Proof.Machine
end

