-- ==== Sys2Proof/Laws/Streams.lean ====
section
/-!
SUPPORT. The lengths of the sequence primitives of spec 00_scope.md R22, R23 and of the streams built from them.
-/
namespace Sys2Proof.Machine

variable {α β : Type}

theorem ceilDiv_zero {r : Nat} (hr : 0 < r) : ceilDiv 0 r = 0 := by
  unfold ceilDiv
  exact Nat.div_eq_of_lt (by omega)

theorem ceilDiv_of_le {n r : Nat} (h0 : 0 < n) (h : n ≤ r) : ceilDiv n r = 1 := by
  unfold ceilDiv
  rw [show n + r - 1 = (n - 1) + r by omega, Nat.add_div_right _ (by omega),
    Nat.div_eq_of_lt (by omega)]

theorem ceilDiv_of_gt {n r : Nat} (hr : 0 < r) (h : r < n) : ceilDiv n r = ceilDiv (n - r) r + 1 := by
  unfold ceilDiv
  rw [show n + r - 1 = (n - r + r - 1) + r by omega, Nat.add_div_right _ hr]

theorem ceilDiv_pos {n r : Nat} (hr : 0 < r) (h0 : 0 < n) : 0 < ceilDiv n r := by
  unfold ceilDiv
  exact Nat.div_pos (by omega) hr

@[simp] theorem chunks_nil (r : Nat) : chunks ([] : List α) r = [] := rfl

theorem chunksUpTo_eq_of_length_le {r n k : Nat} {s : List α} (hr : 0 < r) (hn : s.length ≤ n) (hk : s.length ≤ k) :
    chunksUpTo r n s = chunksUpTo r k s := by
  induction n generalizing s k with
  | zero =>
    obtain rfl : s = [] := List.length_eq_zero_iff.mp (by omega)
    cases k <;> rfl
  | succ n ih =>
    cases s with
    | nil => cases k <;> rfl
    | cons x xs =>
      cases k with
      | zero => simp at hk
      | succ k =>
        simp only [chunksUpTo]
        congr 1
        simp only [List.length_cons] at hn hk
        exact ih (by simp only [List.length_drop, List.length_cons]; omega)
          (by simp only [List.length_drop, List.length_cons]; omega)

/-- The runs of a list: its first run, and the runs of the rest. -/
theorem chunks_of_ne_nil {r : Nat} {s : List α} (hr : 0 < r) (hs : s ≠ []) :
    chunks s r = s.take r :: chunks (s.drop r) r := by
  cases s with
  | nil => exact absurd rfl hs
  | cons x xs =>
    simp only [chunks, List.length_cons, chunksUpTo]
    congr 1
    exact chunksUpTo_eq_of_length_le hr
      (by simp only [List.length_drop, List.length_cons]; omega) (le_refl _)

/-- Joining the runs of a list that is one run at most puts no separator in. -/
theorem join_chunks_of_length_le {r : Nat} {s : List α} (sep : List α) (hr : 0 < r) (h : s.length ≤ r) :
    join sep (chunks s r) = s := by
  by_cases hs : s = []
  · subst hs; rfl
  · rw [chunks_of_ne_nil hr hs, List.drop_eq_nil_of_le h, List.take_of_length_le h]
    rfl

/-- Joining the runs of a longer list: its first run, a separator, and the rest joined. -/
theorem join_chunks_of_length_gt {r : Nat} {s : List α} (sep : List α) (hr : 0 < r) (h : r < s.length) :
    join sep (chunks s r) = s.take r ++ sep ++ join sep (chunks (s.drop r) r) := by
  have hs : s ≠ [] := by rintro rfl; simp at h
  have hd : s.drop r ≠ [] := by
    intro he
    have := congrArg List.length he
    simp only [List.length_drop, List.length_nil] at this
    omega
  rw [chunks_of_ne_nil hr hs, chunks_of_ne_nil hr hd]
  rfl

/-- The length of a list joined from its runs: the list, and a separator between each two runs. -/
theorem length_join_chunks {r : Nat} (sep s : List α) (hr : 0 < r) :
    (join sep (chunks s r)).length = s.length + sep.length * (ceilDiv s.length r - 1) := by
  induction hn : s.length using Nat.strong_induction_on generalizing s with
  | _ n ih =>
    subst hn
    by_cases h : s.length ≤ r
    · rw [join_chunks_of_length_le sep hr h]
      have : ceilDiv s.length r - 1 = 0 := by
        rcases Nat.eq_zero_or_pos s.length with h0 | h0
        · rw [h0, ceilDiv_zero hr]
        · rw [ceilDiv_of_le h0 h]
      simp [this]
    · have h' : r < s.length := Nat.lt_of_not_le h
      have hl : (s.drop r).length = s.length - r := List.length_drop
      rw [join_chunks_of_length_gt sep hr h', List.length_append, List.length_append,
        ih _ (by omega) (s.drop r) rfl, hl, ceilDiv_of_gt hr h', List.length_take,
        Nat.min_eq_left (by omega)]
      have := ceilDiv_pos hr (show 0 < s.length - r by omega)
      obtain ⟨q, hq⟩ : ∃ q, ceilDiv (s.length - r) r = q + 1 := ⟨_, (Nat.succ_pred_eq_of_pos this).symm⟩
      rw [hq, show q + 1 + 1 - 1 = q + 1 by omega, show q + 1 - 1 = q by omega, Nat.mul_add, Nat.mul_one]
      omega

@[simp] theorem length_hexN (n v : Nat) : (hexN n v).length = n := by
  induction n generalizing v with
  | zero => rfl
  | succ n ih => simp [hexN, ih]

/-- A text of even length decodes to half as many bytes. -/
theorem length_unhex (n : Nat) {t : Text} (h : t.length = 2 * n) : (unhex t).length = n := by
  induction n generalizing t with
  | zero =>
    obtain rfl : t = [] := List.length_eq_zero_iff.mp (by omega)
    rfl
  | succ n ih =>
    match t, h with
    | a :: b :: t, h =>
      simp only [List.length_cons] at h
      simp [unhex, @ih t (by omega)]

/-- Byte `k` of a decoded text is made of its digits `2k` and `2k + 1`. -/
theorem getElem?_unhex {t : Text} {k : Nat} {hi lo : HexDigit} (hh : t[2 * k]? = some hi) (hl : t[2 * k + 1]? = some lo) :
    (unhex t)[k]? = some (BitVec.ofNat 8 (16 * hi.val + lo.val)) := by
  induction t using unhex.induct generalizing k with
  | case1 a b t ih =>
    cases k with
    | zero =>
      simp only [List.getElem?_cons_zero, Option.some.injEq, Nat.mul_zero, Nat.zero_add, List.getElem?_cons_succ] at hh hl
      simp [unhex, hh, hl]
    | succ k =>
      rw [show 2 * (k + 1) = 2 * k + 1 + 1 by omega, List.getElem?_cons_succ, List.getElem?_cons_succ] at hh
      rw [show 2 * (k + 1) + 1 = 2 * k + 1 + 1 + 1 by omega, List.getElem?_cons_succ, List.getElem?_cons_succ] at hl
      simpa [unhex] using ih hh hl
  | case2 a => simp at hl
  | case3 => simp at hh

@[simp] theorem length_ascii (t : Text) : (ascii t).length = t.length := by simp [ascii]

/-- What is collected from pieces of `k` elements has `n` times as many. -/
theorem length_collect {f : Nat → Option (List α)} {k n : Nat} {out : List α}
    (hf : ∀ i x, f i = some x → x.length = k) (h : collect f n = some out) : out.length = n * k := by
  induction n generalizing out with
  | zero => simp only [collect, Option.some.injEq] at h; simp [← h]
  | succ n ih =>
    simp only [collect] at h
    split at h
    · cases h
    · rename_i o ho
      split at h
      · cases h
      · rename_i x hx
        cases h
        rw [List.length_append, ih ho, hf n x hx, Nat.succ_mul]

theorem length_collectList {f : β → Option (List α)} {k : Nat} {xs : List β} {out : List α}
    (hf : ∀ x y, f x = some y → y.length = k) (h : collectList f xs = some out) : out.length = xs.length * k := by
  induction xs generalizing out with
  | nil => simp only [collectList, Option.some.injEq] at h; simp [← h]
  | cons x xs ih =>
    simp only [collectList] at h
    split at h
    · cases h
    · rename_i a ha
      split at h
      · cases h
      · rename_i o ho
        cases h
        rw [List.length_append, ih ho, hf x a ha, List.length_cons, Nat.succ_mul, Nat.add_comm]

theorem le_frameLength (n : Nat) : n ≤ frameLength n := by
  unfold frameLength ceilDiv blockSize
  omega

@[simp] theorem length_build (op pl : List Byte) (pad : Byte) :
    (build op pl pad).length = frameLength (op.length + pl.length) := by
  have := le_frameLength (op.length + pl.length)
  simp only [build, List.length_append, List.length_replicate]
  omega

@[simp] theorem length_channels (o : ChOrder) : o.channels.length = 3 := by cases o <;> rfl

/-- One row of the update text has 10 + 6W characters (41_image_encoder.md R178). -/
theorem length_rowText {c : Config} {l : Latch} {src : Memory} {h : Nat} {t : Text} (ht : rowText c l src h = some t) :
    t.length = 10 + 6 * l.width := by
  have hch : ∀ w k x, channelText l src h w k = some x → x.length = 2 := by
    intro w k x hx
    simp only [channelText] at hx
    split at hx
    · cases hx
    · cases hx
      exact length_hexN _ _
  have hpx : ∀ w x, pixelText c l src h w = some x → x.length = 6 := by
    intro w x hx
    rw [length_collectList (hch w) hx, length_channels]
  simp only [rowText] at ht
  split at ht
  · cases ht
  · rename_i px hcol
    cases ht
    have := length_collect hpx hcol
    simp only [List.length_append, length_hexN, this, offsetDigits, widthDigits]
    omega

/-- The update text has H x (10 + 6W) characters (R178). -/
theorem length_updateText {c : Config} {l : Latch} {src : Memory} {t : Text} (ht : updateText c l src = some t) :
    t.length = updateTextLength l :=
  length_collect (fun _ _ => length_rowText) ht

theorem length_separateText (t : Text) : (separateText t).length = t.length + 2 * textSeparators t.length := by
  unfold separateText textSeparators
  split
  · rw [length_join_chunks _ _ (by decide : 0 < txtRun)]
    rfl
  · omega

/-- The wire bytes of a final text have the length T that ENC.UPDATE checks (R184, R185). -/
theorem length_wireBytes {c : Config} {l : Latch} {t : Text} (ht : t.length = updateTextLength l) :
    (wireBytes c (finalText t)).length = updateLength c l := by
  have hf : (finalText t).length = updateTextLength l + 2 * textSeparators (updateTextLength l) + 4 := by
    simp only [finalText, List.length_append, length_separateText, ht]
    rfl
  have he : updateTextLength l = 2 * (l.height * (5 + 3 * l.width)) := by
    unfold updateTextLength
    ring
  unfold wireBytes updateLength
  cases c.updWire with
  | decoded =>
    simp only
    rw [length_unhex (updateTextLength l / 2 + textSeparators (updateTextLength l) + 2) (by omega)]
  | ascii => simp only [length_ascii, hf]

/-- Each normalised pixel has 4 bytes (R170). -/
theorem length_normalizedPixel {l : Latch} {src : Memory} {k : Nat} {x : List Byte}
    (hx : normalizedPixel l src k = some x) : x.length = 4 := by
  simp only [normalizedPixel] at hx
  split at hx
  · exact Memory.length_readBytes hx
  · split at hx
    · cases hx
    · rename_i rgb hr
      cases hx
      simp [Memory.length_readBytes hr]

/-- The normalised buffer has 4 x W x H bytes (R170). -/
theorem length_normalize4 {l : Latch} {src : Memory} {px : List Byte} (h : normalize4 l src = some px) :
    px.length = 4 * l.width * l.height := by
  rw [length_collect (fun _ _ => length_normalizedPixel) h]
  ring

theorem length_fullStream (px : List Byte) : (fullStream px).length = px.length + fullSeparators px.length := by
  unfold fullStream fullSeparators
  rw [length_join_chunks _ _ (by decide : 0 < runLen)]
  simp

end Sys2Proof.Machine
end

