-- ==== Sys2Proof/Laws/Engine.lean ====
section
/-!
SUPPORT. What the shared operations can do, said once: a command's meaning is the commit of its result, a result that is
there fits DST, and the cases of a host access (spec 10_state.md R71, R34; 60_exceptions.md R228, R230, R231).
-/
namespace Sys2Proof.Machine

/-- The meaning of every command is the commit of what it computes (R71). -/
theorem exec_eq_commit (i : Instr) (s : State) : exec i s = commit (execute i s.cfg s.latch s.src) s := by
  cases i <;> rfl

/-- A COMPLETE step is the commit of the latched command's result (R71). -/
theorem complete_eq_commit (s : State) : complete s = commit (latchedResult s.cfg s.latch s.src) s := by
  unfold complete latchedResult
  cases s.latch.command with
  | error e => rfl
  | ok i => exact exec_eq_commit i s

/-- A commit that answers a next state is one of the two ends of a command (R230, R231). -/
theorem commit_next_cases {r : Result} {s s' : State} (h : commit r s = .next s') :
    (∃ out size aux, r = .ok out size aux ∧ s' = commitOk out size aux s)
      ∨ ∃ code, r = .err code ∧ s' = commitErr code s := by
  cases r with
  | ok out size aux => exact .inl ⟨out, size, aux, rfl, by cases h; rfl⟩
  | err code => exact .inr ⟨code, rfl, by cases h; rfl⟩
  | fault f => cases h

@[simp] theorem length_opcodeBytes (t : OptTable) (i : Fin 10) : (t.opcodeBytes i).length = (t[i]).len.val := by
  have := (t[i]).len.isLt
  simp only [OptTable.opcodeBytes, List.length_map, List.length_take, List.length_zipIdx, Vector.length_toList]
  omega

/-- Byte `j` of an entry's opcode is the value of its OPT_BYTE (10_state.md R63). -/
theorem getElem?_opcodeBytes (t : OptTable) (i : Fin 10) (j : Fin 16) (h : j.val < (t[i]).len.val) :
    (t.opcodeBytes i)[j.val]? = some ((t[i]).bytes[j].value (16 * i.val + j.val)) := by
  rw [OptTable.opcodeBytes, List.getElem?_map, List.getElem?_take, if_pos h]
  simp

theorem OptByte.value_of_written {b : OptByte} (h : b.written = true) (k : Nat) : b.value k = b.byte := by
  rw [OptByte.value, if_pos h]

/-- A frame result: every check passed, both parts read, and the frame fits DST (40_frame_codec.md R135, R136). -/
theorem frameResult_ok {c : Config} {l : Latch} {src : Memory} {pad : Byte} {n : Nat} {op : Option (List Byte)}
    {out : List Byte} {size aux : Nat} (h : frameResult c l src pad n op = .ok out size aux) :
    inRange l.ops.dstAddr.toNat (frameLength n) c.dstSize ∧ size = 0 ∧ aux = frameLength n - n
      ∧ ∃ o pl, op = some o ∧ src.readBytes l.ops.plAddr.toNat l.ops.plLen.toNat = some pl ∧ out = build o pl pad := by
  unfold frameResult at h
  simp only at h
  split at h
  · cases h
  · rename_i hd
    split at h
    · cases h
    · rename_i o
      split at h
      · cases h
      · rename_i pl hpl
        cases h
        exact ⟨not_not.mp hd, rfl, rfl, o, pl, rfl, hpl, rfl⟩

theorem frameResult_fits {c : Config} {l : Latch} {src : Memory} {pad : Byte} {n : Nat} {op : Option (List Byte)}
    {out : List Byte} {size aux : Nat} (hop : ∀ o, op = some o → o.length + l.ops.plLen.toNat = n)
    (h : frameResult c l src pad n op = .ok out size aux) :
    l.ops.dstAddr.toNat + out.length ≤ c.dstSize.toNat := by
  obtain ⟨hd, -, -, o, pl, rfl, hpl, rfl⟩ := frameResult_ok h
  rw [length_build, Memory.length_readBytes hpl, hop o rfl]
  exact hd

theorem frameRawResult_fits {pad : Byte} {c : Config} {l : Latch} {src : Memory} {out : List Byte} {size aux : Nat}
    (h : frameRawResult pad c l src = .ok out size aux) : l.ops.dstAddr.toNat + out.length ≤ c.dstSize.toNat := by
  unfold frameRawResult at h
  split at h
  · cases h
  · split at h
    · cases h
    · exact frameResult_fits (fun o ho => by rw [Memory.length_readBytes ho]) h

theorem frameOpResult_fits {i : Fin 10} {pad : Byte} {c : Config} {l : Latch} {src : Memory} {out : List Byte}
    {size aux : Nat} (h : frameOpResult i pad c l src = .ok out size aux) :
    l.ops.dstAddr.toNat + out.length ≤ c.dstSize.toNat := by
  unfold frameOpResult at h
  simp only at h
  split at h
  · cases h
  · split at h
    · cases h
    · exact frameResult_fits (fun o ho => by cases ho; rw [length_opcodeBytes]) h

theorem encFullResult_fits {c : Config} {l : Latch} {src : Memory} {out : List Byte} {size aux : Nat}
    (h : encFullResult c l src = .ok out size aux) : l.ops.dstAddr.toNat + out.length ≤ c.dstSize.toNat := by
  unfold encFullResult at h
  split at h
  · cases h
  · split at h
    · cases h
    · simp only at h
      split at h
      · cases h
      · rename_i hd
        split at h
        · cases h
        · rename_i px hpx
          cases h
          rw [length_fullStream, length_normalize4 hpx]
          exact not_not.mp hd

theorem encUpdateResult_fits {c : Config} {l : Latch} {src : Memory} {out : List Byte} {size aux : Nat}
    (h : encUpdateResult c l src = .ok out size aux) : l.ops.dstAddr.toNat + out.length ≤ c.dstSize.toNat := by
  unfold encUpdateResult at h
  split at h
  · cases h
  · split at h
    · cases h
    · split at h
      · cases h
      · split at h
        · cases h
        · rename_i hd
          split at h
          · cases h
          · rename_i t ht
            cases h
            rw [length_wireBytes (length_updateText ht)]
            exact not_not.mp hd

/-- The output of every command fits DST from the latched DST_ADDR (60_exceptions.md R228). -/
theorem execute_ok_fits {i : Instr} {c : Config} {l : Latch} {src : Memory} {out : List Byte} {size aux : Nat}
    (h : execute i c l src = .ok out size aux) : l.ops.dstAddr.toNat + out.length ≤ c.dstSize.toNat := by
  cases i with
  | frameRaw pad => exact frameRawResult_fits h
  | encFull => exact encFullResult_fits h
  | encUpdate => exact encUpdateResult_fits h
  | _ pad => exact frameOpResult_fits h

theorem latchedResult_ok_fits {c : Config} {l : Latch} {src : Memory} {out : List Byte} {size aux : Nat}
    (h : latchedResult c l src = .ok out size aux) : l.ops.dstAddr.toNat + out.length ≤ c.dstSize.toNat := by
  unfold latchedResult at h
  split at h
  · cases h
  · exact execute_ok_fits h

theorem imageError_ne_noError {l : Latch} {code : ErrCode} (h : imageError l = some code) : code ≠ .noError := by
  unfold imageError at h
  split at h
  · cases h; decide
  · split at h
    · cases h; decide
    · cases h

theorem frameResult_err {c : Config} {l : Latch} {src : Memory} {pad : Byte} {n : Nat} {op : Option (List Byte)}
    {code : ErrCode} (h : frameResult c l src pad n op = .err code) : code ≠ .noError := by
  unfold frameResult at h
  simp only at h
  split at h
  · cases h; decide
  · split at h
    · cases h
    · split at h <;> cases h

/-- A command that ends with an error reports one of the codes 0x01 to 0x07 (60_exceptions.md R221, R228). -/
theorem execute_err_ne_noError {i : Instr} {c : Config} {l : Latch} {src : Memory} {code : ErrCode}
    (h : execute i c l src = .err code) : code ≠ .noError := by
  cases i with
  | frameRaw pad =>
    simp only [execute, frameRawResult] at h
    split at h
    · cases h; decide
    · split at h
      · cases h; decide
      · exact frameResult_err h
  | encFull =>
    simp only [execute, encFullResult] at h
    split at h
    · rename_i he; cases h; exact imageError_ne_noError he
    · split at h
      · cases h; decide
      · split at h
        · cases h; decide
        · split at h <;> cases h
  | encUpdate =>
    simp only [execute, encUpdateResult] at h
    split at h
    · rename_i he; cases h; exact imageError_ne_noError he
    · split at h
      · cases h; decide
      · split at h
        · cases h; decide
        · split at h
          · cases h; decide
          · split at h <;> cases h
  | _ pad =>
    simp only [execute, frameOpResult] at h
    split at h
    · cases h; decide
    · split at h
      · cases h; decide
      · exact frameResult_err h

theorem latchedResult_err_ne_noError {c : Config} {l : Latch} {src : Memory} {code : ErrCode}
    (h : latchedResult c l src = .err code) : code ≠ .noError := by
  unfold latchedResult at h
  split at h
  · cases h; decide
  · exact execute_err_ne_noError h

/-- Abandoning a running command writes a prefix of its output, or nothing (70_reset_and_hazards.md R282). -/
theorem abortRunning_cases (s : State) :
    (∃ out size aux k, latchedResult s.cfg s.latch s.src = .ok out size aux ∧ k ≤ out.length
        ∧ abortRunning s = { writePrefix out k s with draws := s.draws + 1 })
      ∨ (∀ out size aux, latchedResult s.cfg s.latch s.src ≠ .ok out size aux) ∧ abortRunning s = s := by
  unfold abortRunning
  cases hr : latchedResult s.cfg s.latch s.src with
  | ok out size aux =>
    refine .inl ⟨out, size, aux, Config.freePrefix s.draws % (out.length + 1), rfl, ?_, rfl⟩
    exact Nat.le_of_lt_succ (Nat.mod_lt _ (Nat.succ_pos _))
  | err code => exact .inr ⟨by intros; simp, rfl⟩
  | fault f => exact .inr ⟨by intros; simp, rfl⟩

/-- What a write to CTRL does (10_state.md R34). -/
theorem writeCtrl_cases (v : Word) (s : State) :
    (v.getLsbD 1 = true ∧ writeCtrl v s = softReset s)
      ∨ (v.getLsbD 1 = false ∧ v.getLsbD 0 = true ∧ s.status.busy = true
          ∧ writeCtrl v s = (s.withIrqEn (v.getLsbD 2)).setHzd)
      ∨ (v.getLsbD 1 = false ∧ v.getLsbD 0 = true ∧ s.status.busy = false
          ∧ writeCtrl v s = start (s.withIrqEn (v.getLsbD 2)))
      ∨ (v.getLsbD 1 = false ∧ v.getLsbD 0 = false ∧ writeCtrl v s = s.withIrqEn (v.getLsbD 2)) := by
  unfold writeCtrl
  cases v.getLsbD 1 <;> cases v.getLsbD 0 <;> cases s.status.busy <;> simp

/-- What a write to a register does: nothing, a new operand word, an opcode-table entry that keeps or gains VALID, an
acknowledgement, or a write to CTRL (10_state.md R32 to R62). -/
theorem writeReg_cases (v : Word) (s : State) (r : Reg) :
    writeReg v s r = s
      ∨ (∃ ops, writeReg v s r = s.withOps ops)
      ∨ (∃ i e, writeReg v s r = s.withEntry i e ∧ (e.valid = true ∨ (e.valid = (s.opt[i]).valid ∧ e.len = (s.opt[i]).len)))
      ∨ (r = .status ∧ writeReg v s r = acknowledge v s)
      ∨ (r = .ctrl ∧ writeReg v s r = writeCtrl v s) := by
  cases r with
  | ctrl => exact .inr (.inr (.inr (.inr ⟨rfl, rfl⟩)))
  | status => exact .inr (.inr (.inr (.inl ⟨rfl, rfl⟩)))
  | cmd => exact .inr (.inl ⟨_, rfl⟩)
  | srcAddr => exact .inr (.inl ⟨_, rfl⟩)
  | srcLen => exact .inr (.inl ⟨_, rfl⟩)
  | plAddr => exact .inr (.inl ⟨_, rfl⟩)
  | plLen => exact .inr (.inl ⟨_, rfl⟩)
  | imgW => exact .inr (.inl ⟨_, rfl⟩)
  | imgH => exact .inr (.inl ⟨_, rfl⟩)
  | imgC => exact .inr (.inl ⟨_, rfl⟩)
  | updX => exact .inr (.inl ⟨_, rfl⟩)
  | updY => exact .inr (.inl ⟨_, rfl⟩)
  | dstAddr => exact .inr (.inl ⟨_, rfl⟩)
  | optLen i =>
    by_cases hv : (v.extractLsb' 0 5).toNat ≤ 16
    · exact .inr (.inr (.inl ⟨i, _, dif_pos hv, .inl rfl⟩))
    · exact .inl (dif_neg hv)
  | optByte i j => exact .inr (.inr (.inl ⟨i, _, rfl, .inr ⟨rfl, rfl⟩⟩))
  | _ => exact .inl rfl

/-- What a host access that answers a next state does, but for the value it returns (20_memory.md R81 to R83, R86;
70_reset_and_hazards.md R285 to R288). -/
theorem hostAccess_next_cases {t : BusTxn} {s s' : State} (h : hostAccess t s = .next s') :
    ∃ s1 r, s' = s1.respond r
      ∧ (s1 = s
        ∨ (s1 = s.setHzd ∧ s.status.busy = true)
        ∨ (∃ off width v reg, t = .regWrite off width v ∧ regAt off = some reg ∧ s1 = writeReg v s reg)
        ∨ (∃ a b, t = .srcWrite a b ∧ a < s.cfg.srcSize.toNat ∧ s.status.busy = false
            ∧ s1 = { s with src := s.src.write a b })
        ∨ (∃ a b, t = .dstWrite a b ∧ a < s.cfg.dstSize.toNat ∧ s.status.busy = false
            ∧ s1 = { s with dst := s.dst.write a b })) := by
  cases t with
  | regWrite off width v =>
    simp only [hostAccess, hostRegWrite] at h
    split at h
    · split at h
      · cases h; exact ⟨_, _, rfl, .inl rfl⟩
      · rename_i reg hr
        cases h
        exact ⟨_, _, rfl, .inr (.inr (.inl ⟨off, width, v, reg, rfl, hr, rfl⟩))⟩
    · cases h
  | regRead off width =>
    simp only [hostAccess, hostRegRead] at h
    split at h
    · split at h
      · cases h; exact ⟨_, _, rfl, .inl rfl⟩
      · cases h; exact ⟨_, _, rfl, .inl rfl⟩
    · cases h
  | srcWrite a b =>
    simp only [hostAccess, hostSrcWrite, Host.Outcome.next.injEq] at h
    subst h
    split
    · split
      · rename_i hb; exact ⟨_, _, rfl, .inr (.inl ⟨rfl, hb⟩)⟩
      · rename_i ha hb
        exact ⟨_, _, rfl, .inr (.inr (.inr (.inl ⟨a, b, rfl, ha, by simpa using hb, rfl⟩)))⟩
    · exact ⟨_, _, rfl, .inl rfl⟩
  | srcRead a =>
    simp only [hostAccess, hostSrcRead] at h
    split at h
    · split at h
      · cases h; exact ⟨_, _, rfl, .inl rfl⟩
      · cases h
    · cases h; exact ⟨_, _, rfl, .inl rfl⟩
  | dstWrite a b =>
    simp only [hostAccess, hostDstWrite, Host.Outcome.next.injEq] at h
    subst h
    split
    · split
      · rename_i hb; exact ⟨_, _, rfl, .inr (.inl ⟨rfl, hb⟩)⟩
      · rename_i ha hb
        exact ⟨_, _, rfl, .inr (.inr (.inr (.inr ⟨a, b, rfl, ha, by simpa using hb, rfl⟩)))⟩
    · exact ⟨_, _, rfl, .inl rfl⟩
  | dstRead a =>
    simp only [hostAccess, hostDstRead] at h
    split at h
    · split at h
      · rename_i hb; cases h; exact ⟨_, _, rfl, .inr (.inl ⟨rfl, hb⟩)⟩
      · split at h
        · cases h; exact ⟨_, _, rfl, .inl rfl⟩
        · cases h
    · cases h; exact ⟨_, _, rfl, .inl rfl⟩

/-- What one step is: ENGINE's COMPLETE, nothing, one host access, one poll, or a power-on reset (20_memory.md R93). -/
theorem step_cases (s : State) :
    (completeDue s = true ∧ step s = complete s)
      ∨ (completeDue s = false
        ∧ ((s.host = [] ∧ step s = .next s)
          ∨ (∃ t rest, s.host = .access t :: rest ∧ step s = hostAccess t (hostTurn rest s))
          ∨ (∃ rest, s.host = .wait :: rest ∧ step s = .next (hostPoll rest (hostTurn (.wait :: rest) s)))
          ∨ (∃ rest, s.host = .powerOn :: rest ∧ step s = .next (powerOnReset (hostTurn rest s))))) := by
  unfold step hostStep
  cases hd : completeDue s with
  | true => exact .inl ⟨rfl, rfl⟩
  | false =>
    refine .inr ⟨rfl, ?_⟩
    rcases hh : s.host with _ | ⟨_ | _ | _, rest⟩
    · exact .inl ⟨rfl, rfl⟩
    · rename_i t
      exact .inr (.inl ⟨t, rest, rfl, rfl⟩)
    · exact .inr (.inr (.inl ⟨rest, rfl, rfl⟩))
    · exact .inr (.inr (.inr ⟨rest, rfl, rfl⟩))

/-- One step taken first, when it answers a next state. -/
theorem sysRun_succ_of_next {n : Nat} {s s' : State} (h : step s = .next s') : sysRun (n + 1) s = sysRun n s' := by
  have unrolled : ∀ (M : Host.Core) (k : Nat) (t t' : M.State), M.step t = .next t' → M.run (k + 1) t = M.run k t' := by
    intro M k t t' ht
    simp only [Host.Core.run, ht]
  exact unrolled core n s s' h

/-- A run that ended in a next state began with a step that did. -/
theorem sysRun_succ_next {n : Nat} {s t : State} (h : sysRun (n + 1) s = .next t) :
    ∃ s', step s = .next s' ∧ sysRun n s' = .next t := by
  have unrolled : ∀ (M : Host.Core) (k : Nat) (x y : M.State), M.run (k + 1) x = .next y →
      ∃ z, M.step x = .next z ∧ M.run k z = .next y := by
    intro M k x y hx
    simp only [Host.Core.run] at hx
    split at hx
    · exact ⟨_, ‹_›, hx⟩
    · cases hx
    · cases hx
  exact unrolled core n s t h

end Sys2Proof.Machine
end

