-- ==== Sys2Proof/Laws/PerInstr.lean ====
section
/-!
SUPPORT. Facts about each command as syntax. Family `TableRow`: the encoding of a command has the fixed bits of its row in
opcode_table.json (its match under its mask), and the command is well-formed.
-/
namespace Sys2Proof.Laws

/-- The fixed bits of a row with a PAD field lie outside bits 15:8. -/
theorem padWord_and_mask (pad : Byte) (low : Word) :
    padWord pad low &&& 0xFFFF00FF#32 = low &&& 0xFFFF00FF#32 := by
  have h : (pad.setWidth 32 <<< 8) &&& 0xFFFF00FF#32 = 0#32 := by
    revert pad
    decide
  rw [padWord, BitVec.and_comm, BitVec.and_or_distrib_left, BitVec.and_comm, h, BitVec.zero_or, BitVec.and_comm]

/-- The mask of the command's row. -/
def TableRow.mask : Instr → Word
  | .frameRaw _ => 0xFFFF00FF#32
  | .frameGetDeviceInfo _ => 0xFFFF00FF#32
  | .frameStopVideo _ => 0xFFFF00FF#32
  | .frameDisplayFullImage _ => 0xFFFF00FF#32
  | .frameQueryRenderStatus _ => 0xFFFF00FF#32
  | .frameUpdateImageRegion _ => 0xFFFF00FF#32
  | .frameStopMedia _ => 0xFFFF00FF#32
  | .frameExit _ => 0xFFFF00FF#32
  | .frameRestart _ => 0xFFFF00FF#32
  | .framePreImageMarker _ => 0xFFFF00FF#32
  | .framePostImageMarker _ => 0xFFFF00FF#32
  | .encFull => 0xFFFFFFFF#32
  | .encUpdate => 0xFFFFFFFF#32

/-- The match of the command's row. -/
def TableRow.fixedBits : Instr → Word
  | .frameRaw _ => 0x00000001#32
  | .frameGetDeviceInfo _ => 0x00000002#32
  | .frameStopVideo _ => 0x00000012#32
  | .frameDisplayFullImage _ => 0x00000022#32
  | .frameQueryRenderStatus _ => 0x00000032#32
  | .frameUpdateImageRegion _ => 0x00000042#32
  | .frameStopMedia _ => 0x00000052#32
  | .frameExit _ => 0x00000062#32
  | .frameRestart _ => 0x00000072#32
  | .framePreImageMarker _ => 0x00000082#32
  | .framePostImageMarker _ => 0x00000092#32
  | .encFull => 0x00000003#32
  | .encUpdate => 0x00000004#32

/-- The encoding carries the row's fixed bits, and the command is well-formed. -/
def TableRow.Statement (i : Instr) : Prop :=
  encode i &&& TableRow.mask i = TableRow.fixedBits i ∧ i.wellFormed = true

theorem TableRow.frameRaw (pad : Byte) : TableRow.Statement (.frameRaw pad) := ⟨padWord_and_mask pad _, rfl⟩

theorem TableRow.frameGetDeviceInfo (pad : Byte) : TableRow.Statement (.frameGetDeviceInfo pad) := ⟨padWord_and_mask pad _, rfl⟩

theorem TableRow.frameStopVideo (pad : Byte) : TableRow.Statement (.frameStopVideo pad) := ⟨padWord_and_mask pad _, rfl⟩

theorem TableRow.frameDisplayFullImage (pad : Byte) : TableRow.Statement (.frameDisplayFullImage pad) := ⟨padWord_and_mask pad _, rfl⟩

theorem TableRow.frameQueryRenderStatus (pad : Byte) : TableRow.Statement (.frameQueryRenderStatus pad) := ⟨padWord_and_mask pad _, rfl⟩

theorem TableRow.frameUpdateImageRegion (pad : Byte) : TableRow.Statement (.frameUpdateImageRegion pad) := ⟨padWord_and_mask pad _, rfl⟩

theorem TableRow.frameStopMedia (pad : Byte) : TableRow.Statement (.frameStopMedia pad) := ⟨padWord_and_mask pad _, rfl⟩

theorem TableRow.frameExit (pad : Byte) : TableRow.Statement (.frameExit pad) := ⟨padWord_and_mask pad _, rfl⟩

theorem TableRow.frameRestart (pad : Byte) : TableRow.Statement (.frameRestart pad) := ⟨padWord_and_mask pad _, rfl⟩

theorem TableRow.framePreImageMarker (pad : Byte) : TableRow.Statement (.framePreImageMarker pad) := ⟨padWord_and_mask pad _, rfl⟩

theorem TableRow.framePostImageMarker (pad : Byte) : TableRow.Statement (.framePostImageMarker pad) := ⟨padWord_and_mask pad _, rfl⟩

theorem TableRow.encFull : TableRow.Statement .encFull := ⟨by decide, rfl⟩

theorem TableRow.encUpdate : TableRow.Statement .encUpdate := ⟨by decide, rfl⟩

end Sys2Proof.Laws
end

