-- ==== Sys2Proof/Machine/Assembly.lean ====
section
/-!
DEFINITION. The host programs of spec 30_encoding.md section 5: the command mnemonics (R111), the host statements and
pseudo-statements, and the requests each expands to (R112, R113).
-/
namespace Sys2Proof.Machine

/-- The mnemonic of a command (R111; opcode_table.json). -/
def mnemonic : Instr → String
  | .frameRaw _ => "FRAME.RAW"
  | .frameGetDeviceInfo _ => "FRAME.GET_DEVICE_INFO"
  | .frameStopVideo _ => "FRAME.STOP_VIDEO"
  | .frameDisplayFullImage _ => "FRAME.DISPLAY_FULL_IMAGE"
  | .frameQueryRenderStatus _ => "FRAME.QUERY_RENDER_STATUS"
  | .frameUpdateImageRegion _ => "FRAME.UPDATE_IMAGE_REGION"
  | .frameStopMedia _ => "FRAME.STOP_MEDIA"
  | .frameExit _ => "FRAME.EXIT"
  | .frameRestart _ => "FRAME.RESTART"
  | .framePreImageMarker _ => "FRAME.PRE_IMAGE_MARKER"
  | .framePostImageMarker _ => "FRAME.POST_IMAGE_MARKER"
  | .encFull => "ENC.FULL"
  | .encUpdate => "ENC.UPDATE"

/-- The bytes of an `opt.load`: at most OPC_MAX = 16 of them, since R112 defines the statement for no more. -/
abbrev OpcodeList : Type := { bs : List Byte // bs.length ≤ 16 }

/-- A statement or a pseudo-statement of a host program (R112). -/
inductive HostStmt where
  | wr (r : Reg) (v : Word)
  | rd (r : Reg)
  | wrs (a : Nat) (bs : List Byte)
  | rdd (a : Nat) (n : Nat)
  | wrd (a : Nat) (bs : List Byte)
  | start
  | startIrq
  | wait
  | clr
  | run (i : Instr)
  | optLoad (i : Fin 10) (bs : OpcodeList)
deriving DecidableEq, Repr

/-- `wr REG, v` as a request. -/
def wrReq (r : Reg) (v : Word) : HostReq := .access (.regWrite r.offset .w32 v)

/-- Byte writes to SRC from `a` on, one transaction each, in order; no offset wraps (00_scope.md R25; log
entry 14). -/
def wrsReqs (a : Nat) : List Byte → List HostReq
  | [] => []
  | b :: bs => .access (.srcWrite a b) :: wrsReqs (a + 1) bs

/-- Byte writes to DST from `a` on, one transaction each, in order; no offset wraps (00_scope.md R25; log
entry 14). -/
def wrdReqs (a : Nat) : List Byte → List HostReq
  | [] => []
  | b :: bs => .access (.dstWrite a b) :: wrdReqs (a + 1) bs

/-- Byte reads of DST from `a` on, one transaction each, in order; no offset wraps (00_scope.md R25; log
entry 14). -/
def rddReqs (a : Nat) : Nat → List HostReq
  | 0 => []
  | n + 1 => .access (.dstRead a) :: rddReqs (a + 1) n

/-- The writes of `bs` to OPT_BYTE[i][j], OPT_BYTE[i][j + 1], ..., in order. -/
def optByteReqs (i : Fin 10) : (j : Nat) → (bs : List Byte) → j + bs.length ≤ 16 → List HostReq
  | _, [], _ => []
  | j, b :: bs, h =>
    wrReq (.optByte i ⟨j, by simp only [List.length_cons] at h; omega⟩) (b.setWidth 32)
      :: optByteReqs i (j + 1) bs (by simp only [List.length_cons] at h; omega)

/-- The requests a statement expands to (R112). -/
def HostStmt.expand : HostStmt → List HostReq
  | .wr r v => [wrReq r v]
  | .rd r => [.access (.regRead r.offset .w32)]
  | .wrs a bs => wrsReqs a bs
  | .rdd a n => rddReqs a n
  | .wrd a bs => wrdReqs a bs
  | .start => [wrReq .ctrl 0x1#32]
  | .startIrq => [wrReq .ctrl 0x5#32]
  | .wait => [.wait]
  | .clr => [wrReq .status 0xE#32]
  | .run i => [wrReq .cmd (encode i), wrReq .ctrl 0x1#32, .wait]
  | .optLoad i bs => optByteReqs i 0 bs.val (by have := bs.property; omega) ++ [wrReq (.optLen i) (BitVec.ofNat 32 bs.val.length)]

/-- A host program as its requests, in program order (R113). -/
def assemble : List HostStmt → List HostReq
  | [] => []
  | st :: sts => st.expand ++ assemble sts

end Sys2Proof.Machine
end

