-- ==== Sys2Proof/Tests/Slice0.lean ====
section
/-!
SUPPORT. Tests on small states, each about one step: the ill-formed terms, words written out from the encoding tables, the
vectors of spec 95_test_vectors.md (named by their number there), and, for every obligation with hypotheses, a concrete state
that meets them (`test_meets_...`).
-/
namespace Sys2Proof.Tests

-- One kernel check after the other: a check for each theorem at once takes more threads than the memory bound allows.
set_option Elab.async false

open Sys2Proof Sys2Proof.Machine

/-! ## Helpers -/

/-- The next state, if that is the outcome. -/
def nextState : Host.Outcome State Fault Refusal → Option State
  | .next s => some s
  | .fault _ => none
  | .refused _ => none

/-- A field of the next state, if that is the outcome. -/
def after {α : Type} (f : State → α) (o : Host.Outcome State Fault Refusal) : Option α := (nextState o).map f

/-- The fault, if that is the outcome. -/
def faultOf : Host.Outcome State Fault Refusal → Option Fault
  | .next _ => none
  | .fault f => some f
  | .refused _ => none

/-- The outcome is a next state. -/
def completes (o : Host.Outcome State Fault Refusal) : Bool := (nextState o).isSome

theorem next_of_completes {o : Host.Outcome State Fault Refusal} (h : completes o = true) : ∃ t, o = .next t := by
  cases o with
  | next s => exact ⟨s, rfl⟩
  | fault f => cases h
  | refused r => cases h

/-- Bytes written one after the other into an empty memory. -/
def bytesAt (a : Nat) (bs : List Byte) : Memory := Memory.writeBytes [] a bs

/-- Entry `i` of the test table: one byte, 0xC0 + i. -/
def testEntry (i : Nat) : OptEntry :=
  { len := 1, valid := true
    bytes := (Vector.replicate 16 { byte := 0#8, written := false }).set 0 { byte := BitVec.ofNat 8 (0xC0 + i), written := true } }

def testTable : OptTable :=
  #v[testEntry 0, testEntry 1, testEntry 2, testEntry 3, testEntry 4, testEntry 5, testEntry 6, testEntry 7, testEntry 8,
    testEntry 9]

/-- A table in which every entry is valid with LEN 1 but its byte was never written. -/
def unwrittenTable : OptTable :=
  Vector.replicate 10 { len := 1, valid := true, bytes := Vector.replicate 16 { byte := 0#8, written := false } }

/-- A table in which every entry was loaded with LEN 0. -/
def emptyTable : OptTable :=
  Vector.replicate 10 { len := 0, valid := true, bytes := Vector.replicate 16 { byte := 0#8, written := false } }

def busyStatus : Status := { Status.reset with busy := true }

/-- A state in which a command with these latched operands runs and is due. -/
def running (ops : OperandRegs) (opt : OptTable) (src : Memory) : State :=
  { State.reset with status := busyStatus, ops := ops, opt := opt, latch := { ops := ops, opt := opt }, src := src }

/-- Operands of FRAME.RAW: `n` opcode bytes at `a`, `m` payload bytes at `b`, DST at `d`. -/
def rawOps (a n b m d : Nat) : OperandRegs :=
  { OperandRegs.reset with cmd := 0x00000001#32, srcAddr := BitVec.ofNat 32 a, srcLen := BitVec.ofNat 32 n,
                           plAddr := BitVec.ofNat 32 b, plLen := BitVec.ofNat 32 m, dstAddr := BitVec.ofNat 32 d }

/-- Operands of an image command: W, H, C, X, Y, and where the image and the output lie. -/
def imageOps (cmd : Word) (w h c x y a d : Nat) : OperandRegs :=
  { OperandRegs.reset with cmd := cmd, imgW := BitVec.ofNat 32 w, imgH := BitVec.ofNat 32 h, imgC := BitVec.ofNat 32 c,
                           updX := BitVec.ofNat 32 x, updY := BitVec.ofNat 32 y, srcAddr := BitVec.ofNat 32 a,
                           dstAddr := BitVec.ofNat 32 d }

def encFullWord : Word := 0x00000003#32
def encUpdateWord : Word := 0x00000004#32

/-- The twelve bytes of E3 and U1. -/
def twelveBytes : List Byte :=
  [0x01#8, 0x02#8, 0x03#8, 0x04#8, 0x05#8, 0x06#8, 0x07#8, 0x08#8, 0x09#8, 0x0A#8, 0x0B#8, 0x0C#8]

/-- The sixteen bytes of U2. -/
def sixteenBytes : List Byte :=
  [0x10#8, 0x11#8, 0x12#8, 0x13#8, 0x20#8, 0x21#8, 0x22#8, 0x23#8, 0x30#8, 0x31#8, 0x32#8, 0x33#8, 0x40#8, 0x41#8, 0x42#8,
    0x43#8]

/-- FRAME.RAW with opcode A1 B2 (F10), due. -/
def rawState : State := running (rawOps 0 2 0 0 0) testTable (bytesAt 0 [0xA1#8, 0xB2#8])

/-- A frame command with one payload byte at 5, due; the table is the test table. -/
def opState : State := running (rawOps 0 0 5 1 0) testTable (bytesAt 5 [0x77#8])

/-- ENC.FULL of E3, due. -/
def fullState : State := running (imageOps encFullWord 2 2 3 0 0 0 0) testTable (bytesAt 0 twelveBytes)

/-- ENC.UPDATE of U2, due. -/
def updateState : State := running (imageOps encUpdateWord 2 2 4 1 2 0 0) testTable (bytesAt 0 sixteenBytes)

/-- A running command that waits for two more host accesses. -/
def waitingState : State := { rawState with delay := 2 }

/-! ## Ill-formed terms -/

theorem test_zero_srcSize_refused : ({ Config.default with srcSize := 0#32 } : Config).wellFormed = false := by decide
theorem test_zero_dstSize_refused : ({ Config.default with dstSize := 0#32 } : Config).wellFormed = false := by decide
theorem test_default_config_wellFormed : Config.default.wellFormed = true := by decide
theorem test_byte_register_access_refused : (BusTxn.regWrite 0x000#12 .w8 1#32).wellFormed = false := by decide
theorem test_halfword_register_access_refused : (BusTxn.regRead 0x004#12 .w16).wellFormed = false := by decide
theorem test_misaligned_register_access_refused : (BusTxn.regRead 0x002#12 .w32).wellFormed = false := by decide
theorem test_wide_memory_offset_refused : (BusTxn.srcRead 0x100000000).wellFormed = false := by decide
theorem test_word_register_access_wellFormed : (BusTxn.regWrite 0xFFC#12 .w32 1#32).wellFormed = true := by decide

/-! ## Words written out from the encoding (X1 to X13; R100 to R105, R111) -/

theorem test_decodes_frameRaw : decode 0x00002C01#32 = .ok (.frameRaw 0x2C#8) := by decide
theorem test_decodes_frameGetDeviceInfo : decode 0x00000002#32 = .ok (.frameGetDeviceInfo 0x00#8) := by decide
theorem test_decodes_frameStopVideo : decode 0x00000112#32 = .ok (.frameStopVideo 0x01#8) := by decide
theorem test_decodes_frameDisplayFullImage : decode 0x00002C22#32 = .ok (.frameDisplayFullImage 0x2C#8) := by decide
theorem test_decodes_frameQueryRenderStatus : decode 0x00000032#32 = .ok (.frameQueryRenderStatus 0x00#8) := by decide
theorem test_decodes_frameUpdateImageRegion : decode 0x00008042#32 = .ok (.frameUpdateImageRegion 0x80#8) := by decide
theorem test_decodes_frameStopMedia : decode 0x0000FF52#32 = .ok (.frameStopMedia 0xFF#8) := by decide
theorem test_decodes_frameExit : decode 0x00000062#32 = .ok (.frameExit 0x00#8) := by decide
theorem test_decodes_frameRestart : decode 0x00007F72#32 = .ok (.frameRestart 0x7F#8) := by decide
theorem test_decodes_framePreImageMarker : decode 0x00000082#32 = .ok (.framePreImageMarker 0x00#8) := by decide
theorem test_decodes_framePostImageMarker : decode 0x00000092#32 = .ok (.framePostImageMarker 0x00#8) := by decide
theorem test_decodes_encFull : decode 0x00000003#32 = .ok .encFull := by decide
theorem test_decodes_encUpdate : decode 0x00000004#32 = .ok .encUpdate := by decide

theorem test_illegal_words :
    decode 0x00000000#32 = .error .reservedOp ∧ decode 0x00000005#32 = .error .reservedOp
      ∧ decode 0x0000000F#32 = .error .reservedOp ∧ decode 0x00000011#32 = .error .opselNotAllowed
      ∧ decode 0x00000013#32 = .error .opselNotAllowed ∧ decode 0x000000A2#32 = .error .opselReserved
      ∧ decode 0x000000F2#32 = .error .opselReserved ∧ decode 0x00000103#32 = .error .padNotAllowed
      ∧ decode 0x00000104#32 = .error .padNotAllowed ∧ decode 0x00010004#32 = .error .reservedBits
      ∧ decode 0x80000001#32 = .error .reservedBits := by decide

theorem test_decodeTableWord :
    decodeTableWord 32 0x00002C01 = some (.frameRaw 0x2C#8) ∧ decodeTableWord 8 0x62 = some (.frameExit 0#8)
      ∧ decodeTableWord 32 0x000000A2 = none := by decide

/-- P1: the requests of `opt.load 0, 0x11, 0x22` and of `run FRAME.GET_DEVICE_INFO` are the transactions written there. -/
theorem test_assembles_P1 :
    assemble [.optLoad 0 ⟨[0x11#8, 0x22#8], by decide⟩, .wr .plLen 0#32, .run (.frameGetDeviceInfo 0#8), .rd .auxCount]
      = [.access (.regWrite 0x200#12 .w32 0x11#32), .access (.regWrite 0x204#12 .w32 0x22#32),
          .access (.regWrite 0x100#12 .w32 0x2#32), .access (.regWrite 0x018#12 .w32 0#32),
          .access (.regWrite 0x008#12 .w32 0x00000002#32), .access (.regWrite 0x000#12 .w32 0x1#32), .wait,
          .access (.regRead 0x03C#12 .w32)] := by decide

/-- R112, R25: the byte after offset 0xFFFFFFFF is at no offset of a memory, and its write has no effect (R83). -/
theorem test_wrs_does_not_wrap :
    assemble [.wrs 0xFFFFFFFF [1#8, 2#8]] = [.access (.srcWrite 0xFFFFFFFF 1#8), .access (.srcWrite 0x100000000 2#8)]
      ∧ after (fun t => t.src) (hostAccess (.srcWrite 0x100000000 2#8) State.reset) = some [] := by decide +kernel

/-- R112: `opt.load` takes 16 bytes and no more. -/
theorem test_opt_load_bound :
    (List.replicate 16 0x11#8).length ≤ 16 ∧ ¬ (List.replicate 17 0x11#8).length ≤ 16
      ∧ (HostStmt.optLoad 9 ⟨List.replicate 16 0x11#8, by decide⟩).expand.length = 17 := by decide +kernel

/-! ## Frames -/

/-- F1 to F9: the frame length for n bytes. -/
theorem test_frame_lengths :
    [0, 1, 2, 249, 250, 251, 499, 500, 501].map frameLength = [0, 250, 250, 250, 250, 500, 500, 500, 750] := by decide

/-- F10: FRAME.RAW, through a START and its COMPLETE step. -/
theorem test_frameRaw_F10 :
    after (fun t => ((t.dst.readBytes 0 3, t.dst.read 249, t.dst.read 250), t.outLen, t.auxCount, t.sizeField, t.status.word))
        (step (rawState.withFetchWord 32 0x00000001))
      = some ((some [0xA1#8, 0xB2#8, 0x00#8], some 0x00#8, none), 250#32, 248#32, 0#32, 0x00000002#32) := by
  decide +kernel

/-- F17, F18: the ends of SRC and DST. -/
theorem test_frameRaw_range_ends :
    after (fun t => t.status.word) (exec (.frameRaw 0#8) (running (rawOps 4095 2 0 0 0) testTable [])) = some 0x00000604#32
      ∧ after (fun t => (t.status.word, t.outLen)) (exec (.frameRaw 0#8) (running (rawOps 0 0 0 0 4096) testTable []))
        = some (0x00000002#32, 0#32)
      ∧ after (fun t => t.status.word) (exec (.frameRaw 0#8) (running (rawOps 0 0 0 0 4097) testTable []))
        = some 0x00000704#32 := by decide +kernel

/-- F11 for all ten entries: each command takes its own entry's byte, then the payload, then pad 0x2C. -/
theorem test_each_frameOp_uses_its_entry :
    frameCommands.map (fun p => after (fun t => (t.dst.readBytes 0 3, t.dst.read 249, t.dst.read 250, t.auxCount)) (exec (p.1 0x2C#8) opState))
      = [0xC0#8, 0xC1#8, 0xC2#8, 0xC3#8, 0xC4#8, 0xC5#8, 0xC6#8, 0xC7#8, 0xC8#8, 0xC9#8].map
          (fun b => some (some [b, 0x77#8, 0x2C#8], some 0x2C#8, none, 248#32)) := by decide +kernel

/-- Every word of the ten, written out with its OPSEL, runs the command of its entry on the very next step. -/
theorem test_each_frameOp_word_runs :
    [0x02, 0x12, 0x22, 0x32, 0x42, 0x52, 0x62, 0x72, 0x82, 0x92].map
        (fun w => after (fun t => t.dst.read 0) (step (opState.withFetchWord 32 w)))
      = [0xC0#8, 0xC1#8, 0xC2#8, 0xC3#8, 0xC4#8, 0xC5#8, 0xC6#8, 0xC7#8, 0xC8#8, 0xC9#8].map (fun b => some (some b)) := by
  decide +kernel

/-- F14: an entry loaded with LEN 0 and no payload. -/
theorem test_frameExit_F14 :
    after (fun t => (t.outLen, t.status.word, t.dst)) (exec (.frameExit 0#8) (running (rawOps 0 0 0 0 0) emptyTable []))
      = some (0#32, 0x00000002#32, []) := by decide +kernel

/-- F15: an entry never loaded. F19: an illegal word comes first. -/
theorem test_frameStopVideo_F15_F19 :
    after (fun t => (t.status.word, t.outLen)) (exec (.frameStopVideo 0#8) (running (rawOps 0 0 0 0 0) OptTable.reset []))
      = some (0x00000404#32, 0#32)
      ∧ after (fun t => t.status.word)
          (complete (running { OperandRegs.reset with cmd := 0x00010012#32 } OptTable.reset [])) = some 0x00000104#32 := by
  decide +kernel

/-- F16: the frame does not fit 100 bytes from the end of DST. -/
theorem test_frameRestart_F16 :
    after (fun t => (t.status.word, t.dst)) (exec (.frameRestart 0#8) (running (rawOps 0 0 5 1 3996) testTable (bytesAt 5 [0x77#8])))
      = some (0x00000704#32, []) := by decide +kernel

/-! ## Images -/

/-- E1, E2, E3. -/
theorem test_encFull_E1_E2_E3 :
    after (fun t => (t.dst, t.outLen, t.auxCount))
        (exec .encFull (running (imageOps encFullWord 1 1 3 0 0 0 0) testTable (bytesAt 0 [0x10#8, 0x20#8, 0x30#8])))
      = some (bytesAt 0 [0x10#8, 0x20#8, 0x30#8, 0xFF#8], 4#32, 0#32)
      ∧ after (fun t => (t.dst, t.outLen))
          (exec .encFull (running (imageOps encFullWord 1 1 4 0 0 0 0) testTable (bytesAt 0 [0x10#8, 0x20#8, 0x30#8, 0x40#8])))
        = some (bytesAt 0 [0x10#8, 0x20#8, 0x30#8, 0x40#8], 4#32)
      ∧ after (fun t => t.dst) (exec .encFull fullState)
        = some (bytesAt 0 [0x01#8, 0x02#8, 0x03#8, 0xFF#8, 0x04#8, 0x05#8, 0x06#8, 0xFF#8, 0x07#8, 0x08#8, 0x09#8, 0xFF#8, 0x0A#8,
            0x0B#8, 0x0C#8, 0xFF#8]) := by decide +kernel

/-- E4 to E8: the separator counts, and E5's bytes about its separator. -/
theorem test_fullStream_E4_to_E8 :
    [248, 252, 996, 1000].map fullSeparators = [0, 1, 3, 4]
      ∧ ((fullStream ((List.range 252).map (BitVec.ofNat 8))).drop 245
          = [0xF5#8, 0xF6#8, 0xF7#8, 0xF8#8, 0x00#8, 0xF9#8, 0xFA#8, 0xFB#8]) := by decide +kernel

/-- E10 to E14. -/
theorem test_encFull_errors :
    [(0, 5, 3, 0, 0), (1, 1, 2, 0, 0), (0, 1, 5, 0, 0), (1, 1, 3, 4094, 0), (1, 1, 3, 0, 4093)].map
        (fun p => after (fun t => t.status.word)
          (exec .encFull (running (imageOps encFullWord p.1 p.2.1 p.2.2.1 0 0 p.2.2.2.1 p.2.2.2.2) testTable [])))
      = [some 0x00000204#32, some 0x00000304#32, some 0x00000204#32, some 0x00000604#32, some 0x00000704#32] := by
  decide +kernel

/-- U1 and U2. -/
theorem test_encUpdate_U1_U2 :
    after (fun t => (t.dst, t.outLen, t.sizeField, t.auxCount))
        (exec .encUpdate (running (imageOps encUpdateWord 2 2 3 0 0 0 0) testTable (bytesAt 0 twelveBytes)))
      = some (bytesAt 0 [0x00#8, 0x00#8, 0x00#8, 0x00#8, 0x02#8, 0x01#8, 0x02#8, 0x03#8, 0x04#8, 0x05#8, 0x06#8, 0x00#8, 0x03#8,
            0x20#8, 0x00#8, 0x02#8, 0x07#8, 0x08#8, 0x09#8, 0x0A#8, 0x0B#8, 0x0C#8, 0xEF#8, 0x69#8], 24#32, 24#32, 0#32)
      ∧ after (fun t => (t.dst, t.sizeField)) (exec .encUpdate updateState)
        = some (bytesAt 0 [0x00#8, 0x03#8, 0x22#8, 0x00#8, 0x02#8, 0x10#8, 0x11#8, 0x12#8, 0x20#8, 0x21#8, 0x22#8, 0x00#8, 0x06#8,
            0x42#8, 0x00#8, 0x02#8, 0x30#8, 0x31#8, 0x32#8, 0x40#8, 0x41#8, 0x42#8, 0xEF#8, 0x69#8], 24#32) := by decide +kernel

/-- U3 on an instance with the given wire form and channel order. -/
def updateU3 (wire : UpdWire) (order : ChOrder) : State :=
  { running (imageOps encUpdateWord 1 1 3 0 0 0 0) testTable (bytesAt 0 [0xAB#8, 0xCD#8, 0xEF#8]) with
    cfg := { Config.default with updWire := wire, chOrder := order } }

theorem test_encUpdate_U3 :
    after (fun t => (t.dst, t.outLen)) (exec .encUpdate (updateU3 .decoded .c012))
      = some (bytesAt 0 [0x00#8, 0x00#8, 0x00#8, 0x00#8, 0x01#8, 0xAB#8, 0xCD#8, 0xEF#8, 0xEF#8, 0x69#8], 10#32)
      ∧ after (fun t => (t.dst, t.outLen)) (exec .encUpdate (updateU3 .ascii .c012))
        = some (bytesAt 0 [0x30#8, 0x30#8, 0x30#8, 0x30#8, 0x30#8, 0x30#8, 0x30#8, 0x30#8, 0x30#8, 0x31#8, 0x61#8, 0x62#8, 0x63#8,
            0x64#8, 0x65#8, 0x66#8, 0x65#8, 0x66#8, 0x36#8, 0x39#8], 20#32)
      ∧ after (fun t => t.dst) (exec .encUpdate (updateU3 .decoded .c210))
        = some (bytesAt 0 [0x00#8, 0x00#8, 0x00#8, 0x00#8, 0x01#8, 0xEF#8, 0xCD#8, 0xAB#8, 0xEF#8, 0x69#8]) := by decide +kernel

/-- U4 to U8: the separator count by the length of the text. -/
theorem test_textSeparators_U4_to_U8 : [500, 498, 508, 750, 996].map textSeparators = [0, 0, 1, 1, 1] := by decide

/-- U7: DST[246..252], about the one separator of a 40 x 3 update. -/
theorem test_encUpdate_U7 :
    (updateText Config.default { ops := imageOps encUpdateWord 40 3 3 0 0 0 0, opt := testTable }
        ((List.range 360).map (fun k => (k, BitVec.ofNat 8 k)))).map
        (fun t => ((wireBytes Config.default (finalText t)).drop 246).take 7)
      = some [0xEC#8, 0xED#8, 0xEE#8, 0x00#8, 0xEF#8, 0x00#8, 0x06#8] := by decide +kernel

/-- U9, U10, U11 and U12: offset, width, size, dimension and channel boundaries. -/
theorem test_encUpdate_boundaries :
    [(1, 1, 3, 20971, 415), (1, 1, 3, 20971, 416), (0x10000, 1, 3, 0, 0), (0xFFFF, 85, 3, 0, 0), (0xFFFF, 86, 3, 0, 0),
        (2, 0, 3, 0, 0), (2, 1, 5, 0, 0)].map
        (fun p => after (fun t => t.status.word)
          (exec .encUpdate
            (running (imageOps encUpdateWord p.1 p.2.1 p.2.2.1 p.2.2.2.1 p.2.2.2.2 0 0) testTable
              (bytesAt 0 [0xAB#8, 0xCD#8, 0xEF#8]))))
      = [some 0x00000002#32, some 0x00000504#32, some 0x00000504#32, some 0x00000604#32, some 0x00000504#32,
          some 0x00000204#32, some 0x00000304#32] := by decide +kernel

/-- R179: the size field's byte form, on U1's size. -/
theorem test_sizeBytes : sizeBytes Config.default 24 = [0x00#8, 0x00#8, 0x18#8] := by decide

/-! ## Registers, hazards, resets -/

/-- H1. -/
theorem test_reset_registers_H1 :
    readReg State.reset .status = 0x00000000#32 ∧ readReg State.reset .cfgBlock = 0x000000FA#32
      ∧ readReg State.reset .cfgTxt = 0x01F401F2#32 ∧ readReg State.reset .cfgSizes = 0x000A1006#32
      ∧ readReg State.reset .cfgChord = 0x00000024#32 ∧ readReg State.reset .cfgTrailer = 0x0000EF69#32
      ∧ readReg State.reset (.optLen 9) = 0x00000000#32 ∧ State.reset.irq = false := by decide +kernel

/-- H2. -/
theorem test_optLen_writes_H2 :
    after (fun t => readReg t (.optLen 3)) (hostAccess (.regWrite 0x10C#12 .w32 0x11#32) State.reset) = some 0#32
      ∧ after (fun t => readReg t (.optLen 3)) (hostAccess (.regWrite 0x10C#12 .w32 0x10#32) State.reset)
        = some 0x80000010#32 := by decide +kernel

/-- H3. -/
theorem test_status_clear_H3 :
    after (fun t => t.status.word)
      (hostAccess (.regWrite 0x004#12 .w32 0x2#32) { State.reset with status := { Status.reset with done := true, hzd := true } })
      = some 0x00000008#32 := by decide +kernel

/-- H4, H5: START and SOFT_RESET together reset the registers and keep OPT and SRC. -/
theorem test_soft_reset_H4_H5 :
    after (fun t => (t.status.word, t.ops, t.opt, t.src))
        (hostAccess (.regWrite 0x000#12 .w32 0x3#32) { rawState with status := { Status.reset with done := true } })
      = some (0#32, OperandRegs.reset, testTable, bytesAt 0 [0xA1#8, 0xB2#8]) := by decide +kernel

/-- H7: DST while BUSY. -/
theorem test_dst_while_busy_H7 :
    after (fun t => (t.response, t.status.word)) (hostAccess (.dstRead 0) rawState) = some (some 0#32, 0x00000009#32)
      ∧ after (fun t => (t.dst, t.status.word)) (hostAccess (.dstWrite 0 0x99#8) rawState) = some ([], 0x00000009#32) := by
  decide +kernel

/-- P5: the second `start.irq`, and the interrupt line after COMPLETE. -/
theorem test_start_while_busy_P5 :
    after (fun t => (t.status.word, t.irqEn, t.irq, t.latch)) (hostAccess (.regWrite 0x000#12 .w32 0x5#32) rawState)
      = some (0x00000009#32, true, false, rawState.latch)
      ∧ after (fun t => t.irq) (step { rawState with irqEn := true }) = some true := by decide +kernel

/-! ## The hypotheses of the obligations can be met -/

theorem test_meets_DecodedWordIsTheEncoding : decode 0x0000FF92#32 = .ok (.framePostImageMarker 0xFF#8) := by decide

/-- An illegal word in the latch of a block whose COMPLETE is due. -/
theorem test_meets_IllegalWordsAndTheirEnd :
    let s := running { OperandRegs.reset with cmd := 0x000000A2#32 } testTable []
    (∃ e, decode s.latch.ops.cmd = .error e) ∧ completeDue s = true := ⟨⟨.opselReserved, by decide⟩, by decide⟩

theorem test_meets_BuildLengthIsSmallestMultiple :
    250 ∣ 250 ∧ ([0xA1#8, 0xB2#8] : List Byte).length + ([] : List Byte).length ≤ 250
      ∧ 2 ≤ 249 ∧ 249 < (build [0xA1#8, 0xB2#8] [] 0#8).length := by decide +kernel

theorem test_meets_BuildCornerCases :
    250 ∣ (List.replicate 249 0xA1#8).length + ([0xB2#8] : List Byte).length ∧ 250 ∣ ([] : List Byte).length + ([] : List Byte).length := by
  decide +kernel

/-- The largest value of six digits, a text of even length, and an ASCII instance with the digits about the letters' start, the
expected codes being those of R23. -/
theorem test_meets_HexFieldsAreExactAndBigEndian :
    (0xFFFFFF < 16 ^ 6 ∧ hexN 6 0xFFFFFF = [15, 15, 15, 15, 15, 15])
      ∧ (([9, 10, 15, 0] : Text).length % 2 = 0 ∧ unhex [9, 10, 15, 0] = [0x9A#8, 0xF0#8])
      ∧ (updateU3 .ascii .c012).cfg.updWire = .ascii
      ∧ wireBytes (updateU3 .ascii .c012).cfg (finalText [0, 9, 10, 15])
        = [0x30#8, 0x39#8, 0x61#8, 0x66#8, 0x65#8, 0x66#8, 0x36#8, 0x39#8] := by decide +kernel

theorem test_meets_FullStreamSeparators : twelveBytes ≠ [] := by decide

theorem test_meets_ThreeChannelPixelsGainOpaqueAlpha :
    fullState.latch.channelCount = 3 ∧ (normalize4 fullState.latch fullState.src).isSome = true
      ∧ 3 < fullState.latch.width * fullState.latch.height := by decide +kernel

theorem test_meets_FourChannelPixelsPassThrough :
    updateState.latch.channelCount = 4 ∧ (normalize4 updateState.latch updateState.src).isSome = true := by decide +kernel

theorem test_meets_UpdateTextLayout :
    (updateText Config.default updateState.latch updateState.src).isSome = true ∧ 1 < updateState.latch.height
      ∧ 1 < updateState.latch.width := by decide +kernel

theorem test_meets_DecodedUpdateIsByteSeparated :
    Config.default.updWire = .decoded ∧ (updateText Config.default updateState.latch updateState.src).isSome = true := by
  decide +kernel

/-- Operands of U6, 83 x 1 of three channels, whose text has 508 characters. -/
def longUpdate : Latch := { ops := imageOps encUpdateWord 83 1 3 0 0 0 0, opt := testTable }

/-- SRC[k] = k, 249 bytes. -/
def longSource : Memory := (List.range 249).map (fun k => (k, BitVec.ofNat 8 k))

/-- Above the threshold of 250 bytes, too: U6. -/
theorem test_meets_DecodedUpdateIsByteSeparated_long :
    250 < updateTextLength longUpdate / 2 ∧ (updateText Config.default longUpdate longSource).isSome = true := by
  decide +kernel

theorem test_meets_UpdateLengths :
    (rowText (updateU3 .ascii .c012).cfg (updateU3 .ascii .c012).latch (updateU3 .ascii .c012).src 0).isSome = true
      ∧ (updateText (updateU3 .ascii .c012).cfg (updateU3 .ascii .c012).latch (updateU3 .ascii .c012).src).isSome = true
      ∧ (updateU3 .ascii .c012).cfg.updWire = .ascii := by decide +kernel

/-- One opcode byte, the last of SRC, and a frame that ends where DST ends. -/
def rawEdge : State := running (rawOps 4095 1 4096 0 3846) testTable (bytesAt 4095 [0xA1#8])

theorem test_meets_FrameRawCompletes :
    let o := rawEdge.latch.ops
    let T := 250 * ((o.srcLen.toNat + o.plLen.toNat + 249) / 250)
    o.srcAddr.toNat + o.srcLen.toNat ≤ rawEdge.cfg.srcSize.toNat ∧ o.plAddr.toNat + o.plLen.toNat ≤ rawEdge.cfg.srcSize.toNat
      ∧ o.dstAddr.toNat + T ≤ rawEdge.cfg.dstSize.toNat
      ∧ [0xA1#8].length = o.srcLen.toNat ∧ (∀ k < [0xA1#8].length, rawEdge.src.read (o.srcAddr.toNat + k) = [0xA1#8][k]?)
      ∧ ([] : List Byte).length = o.plLen.toNat := by decide +kernel

/-- The first clause: the opcode one byte too long. The second: everything in SRC, DST one byte too short. -/
theorem test_meets_FrameRawErrors :
    ¬ ((rawOps 4095 2 0 0 0).srcAddr.toNat + (rawOps 4095 2 0 0 0).srcLen.toNat ≤ Config.default.srcSize.toNat)
      ∧ ((rawOps 4095 1 4096 0 3847).srcAddr.toNat + (rawOps 4095 1 4096 0 3847).srcLen.toNat ≤ Config.default.srcSize.toNat
        ∧ (rawOps 4095 1 4096 0 3847).plAddr.toNat + (rawOps 4095 1 4096 0 3847).plLen.toNat ≤ Config.default.srcSize.toNat)
      ∧ Config.default.dstSize.toNat < (rawOps 4095 1 4096 0 3847).dstAddr.toNat + 250 * ((1 + 0 + 249) / 250) := by decide

/-- One payload byte, the last of SRC, and a frame that ends where DST ends. -/
def opEdge : State := running (rawOps 0 0 4095 1 3846) testTable (bytesAt 4095 [0x77#8])

theorem test_meets_FrameOpCompletes :
    let o := opEdge.latch.ops
    o.plAddr.toNat + o.plLen.toNat ≤ opEdge.cfg.srcSize.toNat
      ∧ [0x77#8].length = o.plLen.toNat ∧ (∀ k < [0x77#8].length, opEdge.src.read (o.plAddr.toNat + k) = [0x77#8][k]?)
      ∧ ∀ i : Fin 10, (opEdge.latch.opt[i]).valid = true ∧ 0 < (opEdge.latch.opt[i]).len.val
        ∧ ((opEdge.latch.opt[i]).bytes[(0 : Fin 16)]).written = true
        ∧ o.dstAddr.toNat + 250 * (((opEdge.latch.opt[i]).len.val + o.plLen.toNat + 249) / 250) ≤ opEdge.cfg.dstSize.toNat := by
  decide +kernel

theorem test_meets_FrameOpErrors :
    ∀ i : Fin 10, (OptTable.reset[i]).valid = false ∧ (testTable[i]).valid = true
      ∧ ¬ ((rawOps 0 0 4096 1 0).plAddr.toNat + (rawOps 0 0 4096 1 0).plLen.toNat ≤ Config.default.srcSize.toNat)
      ∧ (rawOps 0 0 4095 1 3847).plAddr.toNat + (rawOps 0 0 4095 1 3847).plLen.toNat ≤ Config.default.srcSize.toNat
      ∧ Config.default.dstSize.toNat
        < (rawOps 0 0 4095 1 3847).dstAddr.toNat + 250 * (((testTable[i]).len.val + 1 + 249) / 250) := by decide +kernel

/-- ENC.FULL of one 3-channel pixel that ends where SRC ends, into the last four bytes of DST. -/
def fullEdge : State := running (imageOps encFullWord 1 1 3 0 0 4093 4092) testTable (bytesAt 4093 [1#8, 2#8, 3#8])

theorem test_meets_EncFullCompletes :
    let l := fullEdge.latch
    l.width ≠ 0 ∧ l.height ≠ 0 ∧ (l.channelCount = 3 ∨ l.channelCount = 4)
      ∧ l.ops.srcAddr.toNat + l.width * l.height * l.channelCount ≤ fullEdge.cfg.srcSize.toNat
      ∧ l.ops.dstAddr.toNat + (4 * l.width * l.height + ((4 * l.width * l.height + 248) / 249 - 1)) ≤ fullEdge.cfg.dstSize.toNat
      ∧ fullEdge.src.Written l.ops.srcAddr.toNat (l.width * l.height * l.channelCount) := by decide +kernel

/-- One latch for each clause, in the clauses' order. -/
theorem test_meets_EncFullErrors :
    let l1 : Latch := { ops := imageOps encFullWord 0 1 5 0 0 0 0, opt := testTable }
    let l2 : Latch := { ops := imageOps encFullWord 1 1 5 0 0 0 0, opt := testTable }
    let l3 : Latch := { ops := imageOps encFullWord 1 1 3 0 0 4094 0, opt := testTable }
    let l4 : Latch := { ops := imageOps encFullWord 1 1 3 0 0 4093 4093, opt := testTable }
    ¬ (l1.width ≠ 0 ∧ l1.height ≠ 0)
      ∧ (l2.width ≠ 0 ∧ l2.height ≠ 0) ∧ ¬ (l2.channelCount = 3 ∨ l2.channelCount = 4)
      ∧ (l3.width ≠ 0 ∧ l3.height ≠ 0) ∧ (l3.channelCount = 3 ∨ l3.channelCount = 4)
      ∧ ¬ (l3.ops.srcAddr.toNat + l3.width * l3.height * l3.channelCount ≤ 4096)
      ∧ (l4.width ≠ 0 ∧ l4.height ≠ 0) ∧ (l4.channelCount = 3 ∨ l4.channelCount = 4)
      ∧ l4.ops.srcAddr.toNat + l4.width * l4.height * l4.channelCount ≤ 4096
      ∧ 4096 < l4.ops.dstAddr.toNat + (4 * l4.width * l4.height + ((4 * l4.width * l4.height + 248) / 249 - 1)) := by decide +kernel

/-- ENC.UPDATE of one pixel at the largest offset, U9, into the last ten bytes of DST. -/
def updateEdge : State := running (imageOps encUpdateWord 1 1 3 20971 415 4093 4086) testTable (bytesAt 4093 [1#8, 2#8, 3#8])

/-- The hypotheses of EncUpdateCompletes on a state. -/
abbrev UpdateReady (s : State) : Prop :=
  let l := s.latch
  let Lt := l.height * (10 + 6 * l.width)
  let sepT := if Lt > 500 then (Lt + 497) / 498 - 1 else 0
  let T := if s.cfg.updWire = .decoded then Lt / 2 + sepT + 2 else Lt + 2 * sepT + 4
  l.width ≠ 0 ∧ l.height ≠ 0 ∧ (l.channelCount = 3 ∨ l.channelCount = 4) ∧ l.width ≤ 0xFFFF
    ∧ (l.ops.updX.toNat + l.height - 1) * 800 + l.ops.updY.toNat ≤ 0xFFFFFF
    ∧ l.height * (5 + 3 * l.width) + 2 ≤ 16 ^ s.cfg.sizeDigits.toNat - 1
    ∧ l.ops.srcAddr.toNat + l.width * l.height * l.channelCount ≤ s.cfg.srcSize.toNat
    ∧ l.ops.dstAddr.toNat + T ≤ s.cfg.dstSize.toNat ∧ l.ChannelsWritten s.src

theorem test_meets_EncUpdateCompletes : UpdateReady updateEdge ∧ UpdateReady (updateU3 .ascii .c210) := by decide +kernel

/-- One latch for each clause from the third on; the first two are those of ENC.FULL. -/
theorem test_meets_EncUpdateErrors :
    let l1 : Latch := { ops := imageOps encUpdateWord 1 0 3 0 0 0 0, opt := testTable }
    let l2 : Latch := { ops := imageOps encUpdateWord 1 1 2 0 0 0 0, opt := testTable }
    let l3 : Latch := { ops := imageOps encUpdateWord 1 1 3 20971 416 0 0, opt := testTable }
    let l4 : Latch := { ops := imageOps encUpdateWord 1 1 3 20971 415 4094 0, opt := testTable }
    let l5 : Latch := { ops := imageOps encUpdateWord 1 1 3 20971 415 4093 4087, opt := testTable }
    ¬ (l1.width ≠ 0 ∧ l1.height ≠ 0)
      ∧ (l2.width ≠ 0 ∧ l2.height ≠ 0) ∧ ¬ (l2.channelCount = 3 ∨ l2.channelCount = 4)
      ∧ (l3.width ≠ 0 ∧ l3.height ≠ 0) ∧ (l3.channelCount = 3 ∨ l3.channelCount = 4) ∧ ¬ fieldsFit Config.default l3
      ∧ (l4.width ≠ 0 ∧ l4.height ≠ 0) ∧ (l4.channelCount = 3 ∨ l4.channelCount = 4) ∧ fieldsFit Config.default l4
      ∧ ¬ (l4.ops.srcAddr.toNat + l4.width * l4.height * l4.channelCount ≤ 4096)
      ∧ (l5.width ≠ 0 ∧ l5.height ≠ 0) ∧ (l5.channelCount = 3 ∨ l5.channelCount = 4) ∧ fieldsFit Config.default l5
      ∧ l5.ops.srcAddr.toNat + l5.width * l5.height * l5.channelCount ≤ 4096
      ∧ 4096 < l5.ops.dstAddr.toNat + updateLength Config.default l5 := by decide +kernel

/-- FRAME.RAW whose second byte was never written, and each FRAME.<op> with an unwritten payload byte. -/
theorem test_meets_FrameFaultsOnUnwrittenBytes :
    (let s := running (rawOps 4094 2 0 0 3846) testTable (bytesAt 4094 [0xA1#8])
      let o := s.latch.ops
      o.srcAddr.toNat + o.srcLen.toNat ≤ s.cfg.srcSize.toNat ∧ o.plAddr.toNat + o.plLen.toNat ≤ s.cfg.srcSize.toNat
        ∧ o.dstAddr.toNat + 250 * ((o.srcLen.toNat + o.plLen.toNat + 249) / 250) ≤ s.cfg.dstSize.toNat
        ∧ ¬ (s.src.Written o.srcAddr.toNat o.srcLen.toNat ∧ s.src.Written o.plAddr.toNat o.plLen.toNat)
        ∧ faultOf (exec (.frameRaw 0#8) s) = some .engineSrcUnwritten)
      ∧ ∀ i : Fin 10,
        (testTable[i]).valid = true ∧ ¬ Memory.Written [] 4095 1 ∧ 4095 + 1 ≤ Config.default.srcSize.toNat
          ∧ 3846 + 250 * (((testTable[i]).len.val + 1 + 249) / 250) ≤ Config.default.dstSize.toNat := by decide +kernel

/-- R68, log entry 15: a frame is built also from an opcode byte that was never written; what is known of it stands in DST. -/
theorem test_unwritten_opcode_byte_completes :
    after (fun t => (t.status.word, t.outLen, t.auxCount, t.dst.read 1, (t.dst.read 0).isSome))
        (exec (.frameExit 0x2C#8) (running (rawOps 0 0 5 1 0) unwrittenTable (bytesAt 5 [0x77#8])))
      = some (0x00000002#32, 250#32, 248#32, some 0x77#8, true) := by decide +kernel

theorem test_meets_EncoderFaultsOnUnwrittenPixels :
    let s := running (imageOps encFullWord 1 1 3 0 0 4093 4086) testTable (bytesAt 4093 [1#8, 2#8])
    let l := s.latch
    l.width ≠ 0 ∧ l.height ≠ 0 ∧ (l.channelCount = 3 ∨ l.channelCount = 4)
      ∧ l.ops.srcAddr.toNat + l.width * l.height * l.channelCount ≤ s.cfg.srcSize.toNat
      ∧ l.ops.dstAddr.toNat + (4 * l.width * l.height + ((4 * l.width * l.height + 248) / 249 - 1)) ≤ s.cfg.dstSize.toNat
      ∧ ¬ s.src.Written l.ops.srcAddr.toNat (l.width * l.height * l.channelCount)
      ∧ fieldsFit s.cfg l ∧ l.ops.dstAddr.toNat + updateLength s.cfg l ≤ s.cfg.dstSize.toNat ∧ ¬ l.ChannelsWritten s.src := by
  decide +kernel

/-- Two memories that differ in the byte of the fourth lane. -/
theorem test_meets_UpdateTextIgnoresOtherBytes :
    let l := updateState.latch
    let src := updateState.src
    let src' := src.write 3 0x99#8
    (∀ h < l.height, ∀ w < l.width, ∀ k < 3, pixel l src h w k = pixel l src' h w k) ∧ src ≠ src' := by decide +kernel

theorem test_meets_CommandFrame :
    (∃ t, exec (.frameRaw 0#8) rawState = .next t) ∧ (∃ t, exec .encFull fullState = .next t)
      ∧ ∃ t, exec .encUpdate updateState = .next t :=
  ⟨next_of_completes (by decide +kernel), next_of_completes (by decide +kernel), next_of_completes (by decide +kernel)⟩

theorem test_meets_CommandFrame_frameOps : ∀ p ∈ frameCommands, ∃ t, exec (p.1 0#8) opState = .next t := by
  have h : ∀ p ∈ frameCommands, completes (exec (p.1 0#8) opState) = true := by
    simp only [frameCommands, List.forall_mem_cons]
    decide +kernel
  exact fun p hp => next_of_completes (h p hp)

theorem test_meets_ErrorsArePrecise :
    opState.status.err = false ∧ after (fun t => t.status.err) (exec .encFull opState) = some true := by decide +kernel

theorem test_meets_ResultRegistersAreExact :
    (match execute .encFull fullState.cfg fullState.latch fullState.src with
      | .ok out size aux => decide (out.length = 16 ∧ size = 0 ∧ aux = 0)
      | .err _ => false
      | .fault _ => false) = true
      ∧ completes (exec .encFull fullState) = true := by decide +kernel

theorem test_meets_CompletionSetsDoneOrErr :
    rawState.status.Sound ∧ rawState.status.busy = true ∧ completes (complete rawState) = true := by decide +kernel

/-- Due by the delay with a request pending, and due because no request is pending. -/
theorem test_meets_StepRunsLatchedCommand :
    (({ rawState with host := [.wait] } : State).delay = 0 ∧ rawState.status.busy = true
      ∧ decode rawState.latch.ops.cmd = .ok (.frameRaw 0#8))
      ∧ waitingState.delay ≠ 0 ∧ waitingState.host = [] ∧ waitingState.status.busy = true := by decide +kernel

/-- The block idle, and a command running with host accesses still to come. -/
theorem test_meets_StepPerformsHostRequest :
    State.reset.status.busy = false
      ∧ ∀ r ∈ [HostReq.access (.srcRead 0), HostReq.wait, HostReq.powerOn],
        ({ waitingState with host := [r] } : State).delay ≠ 0 ∧ ({ waitingState with host := [r] } : State).host ≠ [] := by
  simp only [List.forall_mem_cons]
  decide +kernel

/-- For StartLatchesOperands, StartWhileBusyIsDropped, SoftResetWhileIdle, SoftResetWhileBusyWritesAPrefix and
CtrlWriteSetsIrqEnable: values of a CTRL write for START alone, SOFT_RESET with and without START, and neither, and an idle and
a busy state. -/
theorem test_meets_ctrl_write_hypotheses :
    ((0x5#32 : Word).getLsbD 0 = true ∧ (0x5#32 : Word).getLsbD 1 = false)
      ∧ ((0x2#32 : Word).getLsbD 1 = true ∧ (0x3#32 : Word).getLsbD 1 = true)
      ∧ ((0x4#32 : Word).getLsbD 0 = false ∧ (0x4#32 : Word).getLsbD 1 = false)
      ∧ State.reset.status.busy = false ∧ rawState.status.busy = true := by decide

/-- A soft reset while busy: the three cases of the abandoned command's result all occur. -/
theorem test_meets_SoftResetWhileBusyWritesAPrefix :
    (match latchedResult rawState.cfg rawState.latch rawState.src with | .ok o _ _ => o.length | .err _ => 0 | .fault _ => 0) = 250
      ∧ latchedResult Config.default { ops := imageOps encFullWord 0 1 3 0 0 0 0, opt := testTable } [] = .err .badDimension
      ∧ latchedResult Config.default rawState.latch [] = .fault .engineSrcUnwritten := by decide +kernel

theorem test_meets_IrqLine :
    ({ State.reset with irqEn := true, status := { Status.reset with err := true } } : State).irq = true := by decide

/-- Both ends of each range of unnamed offsets are aligned. -/
theorem test_meets_UnnamedOffsetsReadZero :
    ∀ off ∈ [0x064#12, 0x0FC#12, 0x128#12, 0x1FC#12, 0x480#12, 0xFFC#12],
      off.toNat % 4 = 0
        ∧ ((0x064 ≤ off.toNat ∧ off.toNat < 0x100) ∨ (0x128 ≤ off.toNat ∧ off.toNat < 0x200) ∨ 0x480 ≤ off.toNat) := by decide +kernel

theorem test_meets_RegisterMapIsFaithful : regAt 0x47C#12 = some (.optByte 9 15) ∧ (0x47C#12 : BitVec 12).toNat % 4 = 0 := by decide

/-- The largest LEN accepted, the smallest ignored, and a valid entry that stays valid. -/
theorem test_meets_OptLenWrites :
    (0x10#32 : Word).toNat % 32 ≤ 16 ∧ 16 < (0x11#32 : Word).toNat % 32
      ∧ after (fun t => (t.opt[(3 : Fin 10)]).valid)
          (step { State.reset with opt := testTable, host := [.access (.regWrite 0x000#12 .w32 0x2#32)] }) = some true := by
  decide +kernel

/-- A byte never written, whose read answers, and a written one. -/
theorem test_meets_OptByteWritesAndReads :
    (((State.reset.opt[(9 : Fin 10)]).bytes)[(15 : Fin 16)]).written = false
      ∧ completes (hostAccess (.regRead 0x47C#12 .w32) State.reset) = true
      ∧ ((testTable[(9 : Fin 10)]).bytes[(0 : Fin 16)]).written = true
      ∧ after (fun t => t.response) (hostAccess (.regRead 0x440#12 .w32) { State.reset with opt := testTable })
        = some (some 0xC9#32) := by decide +kernel

theorem test_meets_UndefinedRegisterAccessFaults :
    (AccessWidth.w8 ≠ .w32 ∧ AccessWidth.w16 ≠ .w32) ∧ (0x003#12 : BitVec 12).toNat % 4 ≠ 0
      ∧ (0xFFD#12 : BitVec 12).toNat % 4 ≠ 0 := by decide

/-- The first offset beyond each memory, and the last one. -/
theorem test_meets_AccessBeyondMemoryHasNoEffect :
    State.reset.cfg.srcSize.toNat ≤ 4096 ∧ State.reset.cfg.dstSize.toNat ≤ 0x100000000 := by decide

/-- For SrcAccessWhileBusy, DstAccessWhileBusy and MemoryAccessWhileIdle: the last byte of each memory, written, and one never
written, while a command runs and while none does. -/
theorem test_meets_memory_access_hypotheses :
    let s := { running (rawOps 0 0 0 0 0) testTable (bytesAt 4095 [7#8]) with dst := bytesAt 4095 [8#8] }
    s.status.busy = true ∧ 4095 < s.cfg.srcSize.toNat ∧ 4095 < s.cfg.dstSize.toNat
      ∧ s.src.read 4095 = some 7#8 ∧ s.dst.read 4095 = some 8#8
      ∧ s.src.read 0 = none ∧ s.dst.read 0 = none
      ∧ ({ s with status := Status.reset } : State).status.busy = false := by decide +kernel

/-- A register read, an SRC read and a DST read that answer a next state in an idle block. -/
theorem test_meets_ReadsHaveNoSideEffect :
    let s := { State.reset with src := bytesAt 0 [7#8], dst := bytesAt 0 [8#8] }
    completes (hostAccess (.regRead 0x004#12 .w32) s) = true ∧ completes (hostAccess (.srcRead 0) s) = true
      ∧ completes (hostAccess (.dstRead 0) s) = true ∧ s.status.busy = false := by decide +kernel

/-- Every kind of access that does not reset the block, while a command runs. -/
theorem test_meets_HostCannotDisturbARunningCommand :
    rawState.status.busy = true
      ∧ ∀ t ∈ [BusTxn.regWrite 0x000#12 .w32 0x5#32, .regWrite 0x008#12 .w32 4#32, .regRead 0x004#12 .w32, .srcWrite 0 9#8, .srcRead 0,
          .dstWrite 0 9#8, .dstRead 0],
        (HostReq.access t).keepsRunning = true ∧ completes (hostAccess t rawState) = true := by
  simp only [List.forall_mem_cons]
  decide +kernel

/-- BUSY rises by START; it falls by COMPLETE, by a soft reset, and by a power-on reset. -/
theorem test_meets_BusyTransitions :
    after (fun t => t.status.busy) (step { State.reset with host := [.access (.regWrite 0x000#12 .w32 1#32)] }) = some true
      ∧ after (fun t => t.status.busy) (step rawState) = some false
      ∧ after (fun t => t.status.busy) (step { waitingState with host := [.access (.regWrite 0x000#12 .w32 2#32)] }) = some false
      ∧ after (fun t => t.status.busy) (step { waitingState with host := [.powerOn] }) = some false := by decide +kernel

theorem test_meets_PowerOnReset :
    let s := { waitingState with host := [.powerOn, .wait] }
    s.host = HostReq.powerOn :: [.wait] ∧ completeDue s = false := by decide +kernel

/-- A sound state whose step answers a next state, with a command due. -/
theorem test_meets_EveryStepKeepsTheInvariant : rawState.Inv ∧ completes (step rawState) = true := by decide +kernel

theorem test_meets_PollingReachesCompletion :
    let s := { waitingState with host := [.wait] }
    s.status.busy = true ∧ s.host = HostReq.wait :: [] ∧ completes (sysRun (s.delay + 1) s) = true := by decide +kernel

/-- Two host accesses before COMPLETE, one of them a START that is dropped; then COMPLETE answers a next state. -/
theorem test_meets_ResultIsIndependentOfTheSchedule :
    let s := { waitingState with host := [.access (.regWrite 0x000#12 .w32 5#32), .access (.srcWrite 0 9#8)] }
    s.status.busy = true ∧ 2 ≤ s.delay ∧ 2 ≤ s.host.length ∧ (∀ r ∈ s.host.take 2, r.keepsRunning = true)
      ∧ completes (sysRun 2 s) = true ∧ completes (complete s) = true
      ∧ after (fun t => completes (complete t)) (sysRun 2 s) = some true := by decide +kernel

end Sys2Proof.Tests
end

section
/-!
PROOFS, family 00_scope.md: the hex and ASCII fields of the wire text (R23), and the numbers of a command's result (R25).
-/
namespace Sys2Proof.Machine

/-! ## Hex fields and their bytes (O8) -/

/-- The number that a text spells, most significant digit first (R23). -/
def Text.value (t : Text) : Nat := t.foldl (fun acc d => 16 * acc + d.val) 0

theorem Text.value_append_singleton (t : Text) (d : HexDigit) :
    Text.value (t ++ [d]) = 16 * Text.value t + d.val := by
  simp [Text.value]

@[simp] theorem hexDigit_val (v : Nat) : (hexDigit v).val = v % 16 := rfl

/-- A field of `n` digits spells the number it was made from: nothing below 16^n is lost. -/
theorem value_hexN {n v : Nat} (h : v < 16 ^ n) : Text.value (hexN n v) = v := by
  induction n generalizing v with
  | zero =>
    obtain rfl : v = 0 := by simpa using h
    rfl
  | succ n ih =>
    have hq : v / 16 < 16 ^ n := Nat.div_lt_of_lt_mul (by rwa [← pow_succ'])
    rw [hexN, Text.value_append_singleton, ih hq, hexDigit_val]
    exact Nat.div_add_mod v 16

/-- The two digits of a byte decode to it. -/
theorem unhex_hexN_two (b : Byte) : unhex (hexN 2 b.toNat) = [b] := by
  have hdigits : 16 * (b.toNat / 16 % 16) + b.toNat % 16 = b.toNat := by
    have := b.isLt
    omega
  calc unhex (hexN 2 b.toNat)
      = [BitVec.ofNat 8 (16 * (b.toNat / 16 % 16) + b.toNat % 16)] := rfl
    _ = [b] := by rw [hdigits, BitVec.ofNat_toNat, BitVec.setWidth_eq]

/-- Every byte of a decoded text of even length has its two digits there, the first one high. -/
theorem exists_digits_of_lt_length_unhex {t : Text} {k : Nat} (hk : 2 * k + 1 < t.length) :
    ∃ hi lo : HexDigit, t[2 * k]? = some hi ∧ t[2 * k + 1]? = some lo
      ∧ (unhex t)[k]? = some (BitVec.ofNat 8 (16 * hi.val + lo.val)) := by
  have hh := List.getElem?_eq_getElem (show 2 * k < t.length by omega)
  have hl := List.getElem?_eq_getElem hk
  exact ⟨_, _, hh, hl, getElem?_unhex hh hl⟩

theorem asciiDigit_eq (d : HexDigit) :
    asciiDigit d = BitVec.ofNat 8 (if d.val < 10 then 0x30 + d.val else 0x61 + (d.val - 10)) := by
  rw [asciiDigit, apply_ite (BitVec.ofNat 8)]

theorem getElem?_ascii {t : Text} {k : Nat} {d : HexDigit} (h : t[k]? = some d) :
    (ascii t)[k]? = some (asciiDigit d) := by
  simp [ascii, h]

/-- When UPD_WIRE is ASCII the wire carries the characters themselves (41_image_encoder.md R182). -/
theorem wireBytes_of_ascii {c : Config} (h : c.updWire = .ascii) (t : Text) : wireBytes c t = ascii t := by
  simp only [wireBytes, h]

/-- Settles O8: by induction on the number of digits, digit by digit for a byte, and place by place for the two
wire forms. -/
theorem hexFieldsAreExactAndBigEndian : Obligations.HexFieldsAreExactAndBigEndian := by
  refine ⟨fun n v hv => ⟨length_hexN n v, value_hexN hv⟩, unhex_hexN_two, fun t ht => ⟨?_, fun k hk => ?_⟩,
    fun c t hc => ?_⟩
  · exact length_unhex _ (by omega)
  · exact exists_digits_of_lt_length_unhex (by omega)
  · intro f
    have hwire : wireBytes c (finalText t) = ascii f := wireBytes_of_ascii hc _
    rw [hwire]
    exact ⟨length_ascii f, fun k d hd => by rw [getElem?_ascii hd, asciiDigit_eq]⟩

/-! ## The numbers of a result (O29) -/

section Results

variable {c : Config} {l : Latch} {src : Memory} {out : List Byte} {size aux : Nat}

/-- An ENC.FULL result: the full stream of the normalised buffer and the number of its separators
(41_image_encoder.md R174). -/
theorem encFullResult_ok (h : encFullResult c l src = .ok out size aux) :
    size = 0 ∧ ∃ px, normalize4 l src = some px ∧ out = fullStream px ∧ aux = fullSeparators px.length := by
  unfold encFullResult at h
  split at h
  · cases h
  · split at h
    · cases h
    · simp only at h
      split at h
      · cases h
      · split at h
        · cases h
        · rename_i px hpx
          cases h
          exact ⟨rfl, px, hpx, rfl, by rw [length_normalize4 hpx]⟩

/-- An ENC.UPDATE result: its fields fit, and it is the wire form of the update text with its size and the number of
its separators (R183, R184). -/
theorem encUpdateResult_ok (h : encUpdateResult c l src = .ok out size aux) :
    fieldsFit c l ∧ size = updateSize l ∧ aux = textSeparators (updateTextLength l)
      ∧ ∃ t, updateText c l src = some t ∧ out = wireBytes c (finalText t) := by
  unfold encUpdateResult at h
  split at h
  · cases h
  · split at h
    · cases h
    · rename_i hfit
      split at h
      · cases h
      · split at h
        · cases h
        · split at h
          · cases h
          · rename_i t ht
            cases h
            exact ⟨not_not.mp hfit, rfl, rfl, t, ht, rfl⟩

theorem textSeparators_le_updateLength (c : Config) (l : Latch) :
    textSeparators (updateTextLength l) ≤ updateLength c l := by
  unfold updateLength
  cases c.updWire <;> simp only <;> omega

/-- A size field has at most 8 hex digits (00_scope.md R12), so the numbers it holds are register values. -/
theorem lt_of_le_maxSizeField {d : SizeDigits} {n : Nat} (h : n ≤ 16 ^ d.toNat - 1) : n < 2 ^ 32 := by
  cases d <;> simp only [SizeDigits.toNat] at h <;> omega

/-- The size and the count of a result are register values, so that neither wraps in its register (R25). -/
def NumbersFit (size aux : Nat) : Prop := size < 2 ^ 32 ∧ aux < 2 ^ 32

theorem frameResult_numbersFit {pad : Byte} {n : Nat} {op : Option (List Byte)}
    (h : frameResult c l src pad n op = .ok out size aux) : NumbersFit size aux := by
  obtain ⟨hdst, rfl, rfl, -⟩ := frameResult_ok h
  have := c.dstSize.isLt
  exact ⟨by decide, by omega⟩

theorem frameRawResult_numbersFit {pad : Byte} (h : frameRawResult pad c l src = .ok out size aux) :
    NumbersFit size aux := by
  unfold frameRawResult at h
  split at h
  · cases h
  · split at h
    · cases h
    · exact frameResult_numbersFit h

theorem frameOpResult_numbersFit {i : Fin 10} {pad : Byte} (h : frameOpResult i pad c l src = .ok out size aux) :
    NumbersFit size aux := by
  unfold frameOpResult at h
  simp only at h
  split at h
  · cases h
  · split at h
    · cases h
    · exact frameResult_numbersFit h

theorem encFullResult_numbersFit (h : encFullResult c l src = .ok out size aux) : NumbersFit size aux := by
  have hfits := encFullResult_fits h
  obtain ⟨rfl, px, -, rfl, rfl⟩ := encFullResult_ok h
  rw [length_fullStream] at hfits
  have := c.dstSize.isLt
  exact ⟨by decide, by omega⟩

theorem encUpdateResult_numbersFit (h : encUpdateResult c l src = .ok out size aux) : NumbersFit size aux := by
  have hfits := encUpdateResult_fits h
  obtain ⟨⟨-, -, hsize⟩, rfl, rfl, t, ht, rfl⟩ := encUpdateResult_ok h
  rw [length_wireBytes (length_updateText ht)] at hfits
  have hsep := textSeparators_le_updateLength c l
  have := c.dstSize.isLt
  exact ⟨lt_of_le_maxSizeField hsize, by omega⟩

theorem execute_ok_numbersFit {i : Instr} (h : execute i c l src = .ok out size aux) : NumbersFit size aux := by
  cases i with
  | frameRaw pad => exact frameRawResult_numbersFit h
  | encFull => exact encFullResult_numbersFit h
  | encUpdate => exact encUpdateResult_numbersFit h
  | _ pad => exact frameOpResult_numbersFit h

end Results

/-- Settles O29: the length fits because the output fits DST, the size because its field has at most 8 digits, and the
count because the pad bytes or separators it counts are part of what fits DST. -/
theorem resultRegistersAreExact : Obligations.ResultRegistersAreExact := by
  intro i s t out size aux hr ht
  obtain rfl : commitOk out size aux s = t := by
    rw [exec_eq_commit, hr] at ht
    exact Host.Outcome.next.inj ht
  obtain ⟨hsize, haux⟩ := execute_ok_numbersFit hr
  have hlen : out.length < 2 ^ 32 := by
    have hfits := execute_ok_fits hr
    have := s.cfg.dstSize.isLt
    omega
  exact ⟨Nat.mod_eq_of_lt hlen, Nat.mod_eq_of_lt hsize, Nat.mod_eq_of_lt haux,
    fun k hk => Memory.read_writeBytes_inside hk⟩

end Sys2Proof.Machine
end

section
/-!
PROOFS, family 10_state.md: the register window (R32 to R62), the host's accesses to it and to the memories (R68, R72), when
BUSY changes (R65), the invariant that every step keeps, and the running command that no host access disturbs (R67).
-/
namespace Sys2Proof.Machine

/-! ## The register window (R32, R60, R62) -/

/-- A register of the fixed part of the map stands at four times its number (R32). -/
theorem offset_of_fixedReg {n : Nat} {r : Reg} (h : fixedReg n = some r) : r.offset.toNat = 4 * n := by
  unfold fixedReg at h
  split at h <;> cases h <;> rfl

theorem lt_of_fixedReg {n : Nat} {r : Reg} (h : fixedReg n = some r) : n < 25 := by
  unfold fixedReg at h
  split at h <;> cases h <;> decide

theorem offset_optLen (i : Fin 10) : (Reg.optLen i).offset.toNat = 0x100 + 4 * i.val := by
  rw [Reg.offset, BitVec.toNat_ofNat]
  omega

theorem offset_optByte (i : Fin 10) (j : Fin 16) :
    (Reg.optByte i j).offset.toNat = 0x200 + 4 * (16 * i.val + j.val) := by
  rw [Reg.offset, BitVec.toNat_ofNat]
  omega

/-- The three parts of the map: the fixed registers, the OPT_LEN registers and the OPT_BYTE registers (R32). -/
theorem regAt_cases {off : BitVec 12} {r : Reg} (h : regAt off = some r) :
    fixedReg (off.toNat / 4) = some r
      ∨ (∃ i : Fin 10, r = .optLen i ∧ off.toNat / 4 = 0x40 + i.val)
      ∨ ∃ (i : Fin 10) (j : Fin 16), r = .optByte i j ∧ off.toNat / 4 = 0x80 + (16 * i.val + j.val) := by
  simp only [regAt] at h
  split at h
  · exact .inl h
  · split at h
    · rename_i hn
      cases h
      exact .inr (.inl ⟨_, rfl, by simp only; omega⟩)
    · split at h
      · rename_i hn
        cases h
        exact .inr (.inr ⟨_, _, rfl, by simp only; omega⟩)
      · cases h

/-- An aligned offset reaches no register but the one that stands there. -/
theorem eq_offset_of_regAt {off : BitVec 12} {r : Reg} (haligned : off.toNat % 4 = 0) (h : regAt off = some r) :
    off = r.offset := by
  apply BitVec.eq_of_toNat_eq
  rcases regAt_cases h with hf | ⟨i, rfl, hi⟩ | ⟨i, j, rfl, hij⟩
  · rw [offset_of_fixedReg hf]
    omega
  · rw [offset_optLen]
    omega
  · rw [offset_optByte]
    omega

/-- Every register is reached at its offset. -/
theorem regAt_offset (r : Reg) : regAt r.offset = some r := by
  cases r with
  | optLen i => revert i; decide
  | optByte i j => revert i j; decide
  | _ => rfl

theorem offset_aligned (r : Reg) : r.offset.toNat % 4 = 0 := by
  cases r with
  | optLen i => rw [offset_optLen]; omega
  | optByte i j => rw [offset_optByte]; omega
  | _ => rfl

theorem registerAccessDefined_iff {off : BitVec 12} {width : AccessWidth} :
    registerAccessDefined off width = true ↔ width = .w32 ∧ off.toNat % 4 = 0 := by
  simp [registerAccessDefined]

theorem registerAccessDefined_offset (r : Reg) : registerAccessDefined r.offset .w32 = true :=
  registerAccessDefined_iff.mpr ⟨rfl, offset_aligned r⟩

/-- A host read at a register's offset answers what the register reads and changes nothing else (R72). -/
theorem hostAccess_regRead_offset (r : Reg) (s : State) :
    hostAccess (.regRead r.offset .w32) s = .next (s.respond (some (readReg s r))) := by
  simp only [hostAccess, hostRegRead, registerAccessDefined_offset, regAt_offset, if_true]

/-- A host write at a register's offset is the write to that register. -/
theorem hostAccess_regWrite_offset (r : Reg) (v : Word) (s : State) :
    hostAccess (.regWrite r.offset .w32 v) s = .next ((writeReg v s r).respond none) := by
  simp only [hostAccess, hostRegWrite, registerAccessDefined_offset, regAt_offset, if_true]

/-- Settles O41, from the numbers of the fixed registers and the arithmetic of the two indexed parts. -/
theorem registerMapIsFaithful : Obligations.RegisterMapIsFaithful :=
  ⟨rfl, offset_optLen, offset_optByte, fun r => ⟨regAt_offset r, offset_aligned r⟩,
    fun _ _ => eq_offset_of_regAt, hostAccess_regRead_offset⟩

/-- The offsets between and after the three parts of the map (R32). -/
theorem regAt_eq_none {off : BitVec 12}
    (h : (0x064 ≤ off.toNat ∧ off.toNat < 0x100) ∨ (0x128 ≤ off.toNat ∧ off.toNat < 0x200) ∨ 0x480 ≤ off.toNat) :
    regAt off = none := by
  refine Option.eq_none_iff_forall_ne_some.mpr fun r hr => ?_
  rcases regAt_cases hr with hf | ⟨i, -, hi⟩ | ⟨i, j, -, hij⟩
  · have := lt_of_fixedReg hf
    omega
  · omega
  · omega

/-- Settles O42: no register stands there. -/
theorem unnamedOffsetsReadZero : Obligations.UnnamedOffsetsReadZero := by
  intro off v s haligned hrange
  have hdefined := registerAccessDefined_iff.mpr ⟨rfl, haligned⟩
  have hnone := regAt_eq_none hrange
  constructor
  · simp only [hostAccess, hostRegRead, hdefined, hnone, if_true]
    rfl
  · simp only [hostAccess, hostRegWrite, hdefined, hnone, if_true]
    rfl

/-! ## CTRL, STATUS and the interrupt line (R33 to R36, R69) -/

/-- Settles O33: the third case of a CTRL write; the delay and the draws are those of `start`. -/
theorem startLatchesOperands : Obligations.StartLatchesOperands := by
  intro v s hstart hreset hidle
  have hwrite : writeCtrl v s = start (s.withIrqEn (v.getLsbD 2)) := by
    simp only [writeCtrl, hstart, hreset, hidle, if_true, if_false, Bool.false_eq_true]
  refine ⟨Config.freeLatency s.draws, s.draws + 1, ?_⟩
  calc hostAccess (.regWrite 0x000#12 .w32 v) s
      = .next ((writeCtrl v s).respond none) := hostAccess_regWrite_offset .ctrl v s
    _ = _ := by rw [hwrite]; rfl

/-- Settles O35: the last case of a CTRL write. -/
theorem ctrlWriteSetsIrqEnable : Obligations.CtrlWriteSetsIrqEnable := by
  intro v s hstart hreset
  have hwrite : writeCtrl v s = s.withIrqEn (v.getLsbD 2) := by
    simp only [writeCtrl, hstart, hreset, if_false, Bool.false_eq_true]
  calc hostAccess (.regWrite 0x000#12 .w32 v) s
      = .next ((writeCtrl v s).respond none) := hostAccess_regWrite_offset .ctrl v s
    _ = _ := by rw [hwrite]; rfl

/-- Settles O38: both resets leave IRQ_EN 0, and HZD is no part of the line. -/
theorem irqLine : Obligations.IrqLine :=
  ⟨fun s => by simp [State.irq], fun _ _ => rfl, rfl, fun s => by simp [State.irq, softReset]⟩

/-- The flags of a status register after a write of ones to it, each kept where the value has a 0 (R36). -/
theorem Status.writeOneToClear_eq (st : Status) (v : Word) :
    st.writeOneToClear v
      = { busy := st.busy, errcode := st.errcode
          done := if v.getLsbD 1 then false else st.done
          err := if v.getLsbD 2 then false else st.err
          hzd := if v.getLsbD 3 then false else st.hzd } := by
  have hclear : ∀ flag bit : Bool, (flag && !bit) = if bit then false else flag := by decide
  simp only [Status.writeOneToClear, hclear]

/-- Settles O39. -/
theorem statusWriteOneToClear : Obligations.StatusWriteOneToClear := by
  intro v s
  rw [← Status.writeOneToClear_eq]
  exact hostAccess_regWrite_offset .status v s

/-- The flags and the code of STATUS stand in bits of their own, so that the word is their sum (R35). -/
theorem Status.toNat_word (st : Status) :
    st.word.toNat
      = st.busy.toNat + 2 * st.done.toNat + 4 * st.err.toNat + 8 * st.hzd.toNat + 256 * st.errcode.code.toNat := by
  obtain ⟨busy, done, err, hzd, errcode⟩ := st
  revert busy done err hzd
  cases errcode <;> decide

/-- Settles O40. -/
theorem controlAndStatusWordLayout : Obligations.ControlAndStatusWordLayout :=
  fun s => ⟨hostAccess_regRead_offset .ctrl s, hostAccess_regRead_offset .status s, s.status.toNat_word, rfl⟩

/-! ## CMD, the operand registers, and the registers that ignore writes (R37 to R59) -/

/-- A write to an operand register replaces the operands and nothing else. -/
theorem writeReg_operand {r : Reg} (hr : r ∈ operandRegisters) (v : Word) (s : State) :
    writeReg v s r = s.withOps (writeReg v s r).ops := by
  simp only [operandRegisters, List.mem_cons, List.not_mem_nil, or_false] at hr
  rcases hr with rfl | rfl | rfl | rfl | rfl | rfl | rfl | rfl | rfl | rfl | rfl <;> rfl

/-- What the operand registers read after a write to one of them: the value there, the old values elsewhere. -/
theorem readReg_writeReg_operand {r r' : Reg} (hr : r ∈ operandRegisters) (hr' : r' ∈ operandRegisters) (v : Word)
    (s : State) : readReg (writeReg v s r) r' = if r' = r then v else readReg s r' := by
  simp only [operandRegisters, List.mem_cons, List.not_mem_nil, or_false] at hr hr'
  rcases hr with rfl | rfl | rfl | rfl | rfl | rfl | rfl | rfl | rfl | rfl | rfl <;>
    rcases hr' with rfl | rfl | rfl | rfl | rfl | rfl | rfl | rfl | rfl | rfl | rfl <;> rfl

/-- What a register reads does not depend on what the last access returned. -/
@[simp] theorem readReg_respond (s : State) (x : Option Word) (r : Reg) : readReg (s.respond x) r = readReg s r := by
  cases r <;> rfl

/-- Settles O43: the offsets one by one, then the registers by name. -/
theorem operandRegistersReadBack : Obligations.OperandRegistersReadBack := by
  refine ⟨fun v s => ?_, fun r hr v s => ⟨(writeReg v s r).ops, ?_⟩⟩
  · have wrote := fun r => hostAccess_regWrite_offset r v s
    have reads := fun r => hostAccess_regRead_offset r s
    exact ⟨⟨wrote .cmd, reads .cmd⟩, ⟨wrote .srcAddr, reads .srcAddr⟩, ⟨wrote .srcLen, reads .srcLen⟩,
      ⟨wrote .plAddr, reads .plAddr⟩, ⟨wrote .plLen, reads .plLen⟩, ⟨wrote .imgW, reads .imgW⟩,
      ⟨wrote .imgH, reads .imgH⟩, ⟨wrote .imgC, reads .imgC⟩, ⟨wrote .updX, reads .updX⟩,
      ⟨wrote .updY, reads .updY⟩, ⟨wrote .dstAddr, reads .dstAddr⟩⟩
  · have hnext : (writeReg v s r).respond none = { s with ops := (writeReg v s r).ops, response := none } :=
      congrArg (State.respond · none) (writeReg_operand hr v s)
    rw [← hnext, hostAccess_regWrite_offset]
    refine ⟨rfl, ?_, fun r' hr' hne => ?_⟩
    · rw [readReg_respond, readReg_writeReg_operand hr hr, if_pos rfl]
    · rw [readReg_respond, readReg_writeReg_operand hr hr', if_neg hne]

/-- Settles O44. -/
theorem readOnlyRegistersIgnoreWrites : Obligations.ReadOnlyRegistersIgnoreWrites := by
  intro r hr v s
  have hkept : writeReg v s r = s := by
    simp only [readOnlyRegisters, List.mem_cons, List.not_mem_nil, or_false] at hr
    rcases hr with rfl | rfl | rfl | rfl | rfl | rfl | rfl | rfl | rfl | rfl | rfl | rfl <;> rfl
  rw [hostAccess_regWrite_offset, hkept]
  rfl

/-- The fields of CFG_SIZES (R55 to R57). -/
theorem cfgSizesWord_fields (c : Config) :
    (cfgSizesWord c).toNat % 256 = c.sizeDigits.toNat ∧ (cfgSizesWord c).toNat / 2 ^ 8 % 256 = 16
      ∧ (cfgSizesWord c).toNat / 2 ^ 16 % 256 = 10
      ∧ (cfgSizesWord c).toNat / 2 ^ 24 = if c.updWire = .ascii then 1 else 0 := by
  unfold cfgSizesWord
  cases c.sizeDigits <;> cases c.updWire <;> decide

/-- The fields of CFG_CHORD (R58). -/
theorem cfgChordWord_fields (c : Config) :
    (cfgChordWord c).toNat < 64
      ∧ c.chOrder.channels
        = [(cfgChordWord c).toNat % 4, (cfgChordWord c).toNat / 4 % 4, (cfgChordWord c).toNat / 16] := by
  unfold cfgChordWord
  cases c.chOrder <;> decide

theorem toNat_sizeDigits_mem (d : SizeDigits) : d.toNat ∈ [2, 4, 6, 8] := by cases d <;> decide

theorem channels_perm (o : ChOrder) : o.channels.Perm [0, 1, 2] := by cases o <;> decide

/-- Settles O45. -/
theorem readOnlyRegisterValues : Obligations.ReadOnlyRegisterValues := by
  intro s
  have reads := fun r => hostAccess_regRead_offset r s
  exact ⟨reads .outLen, reads .sizeField, reads .auxCount, reads .cfgBlock, reads .cfgRun, reads .cfgStride,
    reads .cfgTxt, reads .cfgSrcSize, reads .cfgDstSize, reads .cfgTrailer,
    ⟨_, reads .cfgSizes, cfgSizesWord_fields s.cfg⟩, ⟨_, reads .cfgChord, cfgChordWord_fields s.cfg⟩,
    toNat_sizeDigits_mem _, channels_perm _⟩

/-! ## What a write can do to the opcode table (R60 to R62) -/

theorem getElem_set_fin {α : Type} {n : Nat} (t : Vector α n) (i k : Fin n) (x : α) :
    (t.set i x)[k] = if k = i then x else t[k] := by
  simp only [Fin.getElem_fin, Vector.getElem_set, Fin.ext_iff, eq_comm]

theorem toNat_lowFive (v : Word) : (v.extractLsb' 0 5).toNat = v.toNat % 32 := by
  simp

theorem writeOptLen_of_le (i : Fin 10) {v : Word} (s : State) (h : v.toNat % 32 ≤ 16) :
    writeOptLen i v s
      = s.withEntry i { len := ⟨v.toNat % 32, by omega⟩, valid := true, bytes := s.opt[i].bytes } := by
  simp only [writeOptLen, toNat_lowFive, h, dite_true]

theorem writeOptLen_of_gt (i : Fin 10) {v : Word} (s : State) (h : 16 < v.toNat % 32) : writeOptLen i v s = s := by
  simp only [writeOptLen, toNat_lowFive, Nat.not_le.mpr h, dite_false]

/-- A table after a write: as it was, or with one entry replaced by one that is loaded or keeps LEN and VALID (R61, R62). -/
def OptTable.Updated (t t' : OptTable) : Prop :=
  t' = t ∨ ∃ (i : Fin 10) (e : OptEntry),
    t' = t.set i e ∧ (e.valid = true ∨ (e.valid = (t[i]).valid ∧ e.len = (t[i]).len))

theorem OptTable.Updated.refl (t : OptTable) : OptTable.Updated t t := .inl rfl

theorem OptTable.Updated.valid {t t' : OptTable} (h : OptTable.Updated t t') {i : Fin 10} (hv : (t[i]).valid = true) :
    (t'[i]).valid = true := by
  rcases h with rfl | ⟨k, e, rfl, he⟩
  · exact hv
  · rw [getElem_set_fin]
    split
    · rename_i hik
      subst hik
      rcases he with he | ⟨he, -⟩
      · exact he
      · exact he.trans hv
    · exact hv

theorem OptTable.Updated.sound {t t' : OptTable} (h : OptTable.Updated t t') (hs : OptTable.Sound t) : OptTable.Sound t' := by
  rcases h with rfl | ⟨k, e, rfl, he⟩
  · exact hs
  · intro i
    rw [getElem_set_fin]
    split
    · intro hv
      rcases he with he | ⟨hvalid, hlen⟩
      · exact absurd hv (by simp [he])
      · exact hlen.trans (hs k (hvalid.symm.trans hv))
    · exact hs i

/-- A soft reset clears the registers, and may leave in DST, whose shape it keeps, the first bytes of an abandoned command's
output (70_reset_and_hazards.md R281, R282). -/
theorem exists_softReset_eq (s : State) : ∃ (m : Memory) (n : Nat),
    softReset s = clearRegisters { s with dst := m, draws := n }
      ∧ (s.dst.wf → m.wf) ∧ (s.dst.within s.cfg.dstSize.toNat → m.within s.cfg.dstSize.toNat) := by
  unfold softReset
  split
  · rcases abortRunning_cases s with ⟨out, size, aux, k, hr, hk, habort⟩ | ⟨-, habort⟩
    · have hfits := latchedResult_ok_fits hr
      have hlen : (out.take k).length ≤ out.length := List.length_take_le' k out
      rw [habort]
      exact ⟨_, _, rfl, Memory.wf_writeBytes, fun hdst => Memory.within_writeBytes hdst (by omega)⟩
    · rw [habort]
      exact ⟨s.dst, s.draws, rfl, id, id⟩
  · exact ⟨s.dst, s.draws, rfl, id, id⟩

@[simp] theorem softReset_opt (s : State) : (softReset s).opt = s.opt := by
  obtain ⟨m, n, h, -⟩ := exists_softReset_eq s
  rw [h]
  rfl

@[simp] theorem writeCtrl_opt (v : Word) (s : State) : (writeCtrl v s).opt = s.opt := by
  rcases writeCtrl_cases v s with ⟨-, h⟩ | ⟨-, -, -, h⟩ | ⟨-, -, -, h⟩ | ⟨-, -, h⟩ <;> simp [h]

theorem writeReg_opt (v : Word) (s : State) (r : Reg) : OptTable.Updated s.opt (writeReg v s r).opt := by
  rcases writeReg_cases v s r with h | ⟨ops, h⟩ | ⟨i, e, h, he⟩ | ⟨-, h⟩ | ⟨-, h⟩ <;> rw [h]
  · exact .refl _
  · exact .refl _
  · exact .inr ⟨i, e, rfl, he⟩
  · exact .refl _
  · rw [writeCtrl_opt]
    exact .refl _

theorem hostAccess_opt {t : BusTxn} {s s' : State} (h : hostAccess t s = .next s') : OptTable.Updated s.opt s'.opt := by
  obtain ⟨s1, r, rfl,
    rfl | ⟨rfl, -⟩ | ⟨off, width, v, reg, -, -, rfl⟩ | ⟨a, b, -, -, -, rfl⟩ | ⟨a, b, -, -, -, rfl⟩⟩ :=
    hostAccess_next_cases h
  · exact .refl _
  · exact .refl _
  · exact writeReg_opt v s reg
  · exact .refl _
  · exact .refl _

theorem complete_opt {s s' : State} (h : complete s = .next s') : s'.opt = s.opt := by
  rw [complete_eq_commit] at h
  rcases commit_next_cases h with ⟨out, size, aux, -, rfl⟩ | ⟨code, -, rfl⟩ <;> rfl

/-- One read of the polling loop: STATUS is returned, and the loop is done when BUSY is 0 (30_encoding.md R112). -/
theorem hostPoll_eq (rest : List HostReq) (s : State) :
    hostPoll rest s
      = { s with host := if s.status.busy then s.host else rest, response := some s.status.word } := by
  unfold hostPoll
  cases hb : s.status.busy <;> simp [hb, State.respond]

@[simp] theorem hostPoll_status (rest : List HostReq) (s : State) : (hostPoll rest s).status = s.status := by
  rw [hostPoll_eq]

@[simp] theorem hostPoll_opt (rest : List HostReq) (s : State) : (hostPoll rest s).opt = s.opt := by
  rw [hostPoll_eq]

/-- No step but a power-on reset does more to the opcode table than a write to it. -/
theorem step_opt {s s' : State} (h : step s = .next s') (hpower : ∀ rest, s.host ≠ .powerOn :: rest) :
    OptTable.Updated s.opt s'.opt := by
  rcases step_cases s with
    ⟨-, hstep⟩ | ⟨-, ⟨-, hstep⟩ | ⟨t, rest, -, hstep⟩ | ⟨rest, -, hstep⟩ | ⟨rest, hhost, -⟩⟩
  · rw [complete_opt (hstep.symm.trans h)]
    exact .refl _
  · cases hstep.symm.trans h
    exact .refl _
  · exact hostAccess_opt (s := hostTurn rest s) (hstep.symm.trans h)
  · cases hstep.symm.trans h
    rw [hostPoll_opt]
    exact .refl _
  · exact absurd hhost (hpower rest)

/-- LEN and VALID stand in bits of their own in OPT_LEN[i] (R60). -/
theorem OptEntry.toNat_lenWord (e : OptEntry) : e.lenWord.toNat = e.len.val + 2 ^ 31 * e.valid.toNat := by
  have hbits : ∀ (len : Fin 17) (valid : Bool),
      (BitVec.ofNat 32 len.val ||| flagBit valid 31).toNat = len.val + 2 ^ 31 * valid.toNat := by decide
  exact hbits e.len e.valid

theorem OptTable.reset_valid (i : Fin 10) : (OptTable.reset[i]).valid = false := by
  simp [OptTable.reset]

/-- Settles O46: an accepted and an ignored write; VALID outlives every step but a power-on reset by `step_opt`. -/
theorem optLenWrites : Obligations.OptLenWrites := by
  refine ⟨fun i v s h => ?_, fun i v s h => ?_, fun s s' h hpower i => (step_opt h hpower).valid,
    fun s i => OptTable.reset_valid i, fun i s => ⟨_, hostAccess_regRead_offset _ s, OptEntry.toNat_lenWord _⟩⟩
  · rw [hostAccess_regWrite_offset, writeReg, writeOptLen_of_le i s h]
    rfl
  · rw [hostAccess_regWrite_offset, writeReg, writeOptLen_of_gt i s h]
    rfl

/-- Settles O47: the entry written and, in it, the byte written are the only ones that differ. -/
theorem optByteWritesAndReads : Obligations.OptByteWritesAndReads := by
  intro i j s
  refine ⟨fun v => ⟨_, hostAccess_regWrite_offset _ v s, ?_, fun i' j' hne => ?_, fun i' => ?_, rfl⟩,
    _, hostAccess_regRead_offset _ s, ?_, fun hw => ?_⟩
  · simp only [writeReg, writeOptByte, respond_opt, withEntry_opt, getElem_set_fin, if_true]
    rfl
  · simp only [writeReg, writeOptByte, respond_opt, withEntry_opt, getElem_set_fin]
    split
    · rename_i hi
      subst hi
      rw [getElem_set_fin, if_neg (fun hj => hne (by rw [hj]))]
    · rfl
  · simp only [writeReg, writeOptByte, respond_opt, withEntry_opt, getElem_set_fin]
    split
    · rename_i hi
      subst hi
      exact ⟨rfl, rfl⟩
    · exact ⟨rfl, rfl⟩
  · have := (s.opt[i].bytes[j].value (16 * i.val + j.val)).isLt
    simp only [readReg, BitVec.toNat_setWidth]
    omega
  · have := (s.opt[i].bytes[j]).byte.isLt
    simp only [readReg, OptByte.value_of_written hw, BitVec.toNat_setWidth]
    omega

/-! ## Which agent moves, and what an access does (R30, R68, R71, R72) -/

theorem completeDue_iff {s : State} : completeDue s = true ↔ s.status.busy = true ∧ (s.delay = 0 ∨ s.host = []) := by
  simp [completeDue]

theorem step_of_completeDue {s : State} (h : completeDue s = true) : step s = complete s := by
  rw [step, if_pos h]

/-- Settles O31. -/
theorem stepRunsLatchedCommand : Obligations.StepRunsLatchedCommand := by
  intro s i hbusy hdue
  have hstep : step s = complete s := step_of_completeDue (completeDue_iff.mpr ⟨hbusy, hdue⟩)
  refine ⟨hstep, fun hdecode => ?_⟩
  rw [hstep, complete, Latch.command, hdecode]

/-- Settles O32. -/
theorem stepPerformsHostRequest : Obligations.StepPerformsHostRequest := by
  intro s hnot
  have hdue : completeDue s = false := by
    rw [Bool.eq_false_iff, ne_eq, completeDue_iff]
    rintro ⟨hbusy, hdue⟩
    rcases hnot with hidle | ⟨hdelay, hhost⟩
    · simp [hbusy] at hidle
    · exact hdue.elim hdelay hhost
  have hstep : step s = hostStep s := by simp only [step, hdue, if_false, Bool.false_eq_true]
  rw [hstep, hostStep]
  refine ⟨fun h => ?_, fun t rest h => ?_, fun rest h => ?_, fun rest h => ?_⟩ <;> rw [h]
  · rfl
  · exact congrArg Host.Outcome.next (hostPoll_eq rest (hostTurn (.wait :: rest) s))
  · rfl

/-- Settles O52: the accesses as they are written, and a read after a write. -/
theorem memoryAccessWhileIdle : Obligations.MemoryAccessWhileIdle := by
  intro a s hidle
  refine ⟨fun ha => ⟨fun b => ⟨s.src.write a b, ?_, fun k => Memory.read_write⟩, ?_⟩,
    fun ha => ⟨fun b => ⟨s.dst.write a b, ?_, fun k => Memory.read_write⟩, ?_⟩⟩
  · simp only [hostAccess, hostSrcWrite, ha, hidle, if_true, if_false, Bool.false_eq_true]
    rfl
  · simp only [hostAccess, hostSrcRead, ha, if_true]
    cases s.src.read a <;> rfl
  · simp only [hostAccess, hostDstWrite, ha, hidle, if_true, if_false, Bool.false_eq_true]
    rfl
  · simp only [hostAccess, hostDstRead, ha, hidle, if_true, if_false, Bool.false_eq_true]
    cases s.dst.read a <;> rfl

theorem hostRegRead_next {off : BitVec 12} {width : AccessWidth} {s s' : State}
    (h : hostRegRead off width s = .next s') : ∃ w, s' = s.respond (some w) := by
  unfold hostRegRead at h
  split at h
  · split at h <;> cases h <;> exact ⟨_, rfl⟩
  · cases h

theorem hostSrcRead_next {a : Nat} {s s' : State} (h : hostSrcRead a s = .next s') : ∃ w, s' = s.respond (some w) := by
  unfold hostSrcRead at h
  split at h
  · split at h <;> cases h
    exact ⟨_, rfl⟩
  · cases h
    exact ⟨_, rfl⟩

theorem hostDstRead_next_of_idle {a : Nat} {s s' : State} (hidle : s.status.busy = false)
    (h : hostDstRead a s = .next s') : ∃ w, s' = s.respond (some w) := by
  simp only [hostDstRead, hidle, if_false, Bool.false_eq_true] at h
  split at h
  · split at h <;> cases h
    exact ⟨_, rfl⟩
  · cases h
    exact ⟨_, rfl⟩

/-- Settles O53: each of the three reads answers the state with a response. -/
theorem readsHaveNoSideEffect : Obligations.ReadsHaveNoSideEffect := by
  intro t s s' h hread
  have hresponds : ∃ w, s' = s.respond (some w) := by
    rcases hread with ⟨off, width, rfl⟩ | ⟨a, rfl⟩ | ⟨⟨a, rfl⟩, hidle⟩
    · exact hostRegRead_next h
    · exact hostSrcRead_next h
    · exact hostDstRead_next_of_idle hidle h
  obtain ⟨w, rfl⟩ := hresponds
  exact ⟨rfl, Option.some_ne_none w⟩

/-! ## What raises and what lowers BUSY (R65) -/

/-- An access to CTRL that answers a next state is an aligned 32-bit access at offset 0. -/
theorem regWrite_ctrl_of_next {off : BitVec 12} {width : AccessWidth} {v : Word} {s s' : State}
    (h : hostAccess (.regWrite off width v) s = .next s') (hctrl : regAt off = some .ctrl) :
    off = 0x000#12 ∧ width = .w32 := by
  simp only [hostAccess, hostRegWrite] at h
  split at h
  · rename_i hdefined
    obtain ⟨hwidth, haligned⟩ := registerAccessDefined_iff.mp hdefined
    exact ⟨eq_offset_of_regAt haligned hctrl, hwidth⟩
  · cases h

/-- A write to a register keeps BUSY, but for a CTRL write that resets the block or starts a command (R34). -/
theorem writeReg_busy (v : Word) (s : State) (r : Reg) :
    (writeReg v s r).status.busy = s.status.busy
      ∨ r = .ctrl ∧ (v.getLsbD 1 = true ∧ (writeReg v s r).status.busy = false
        ∨ v.getLsbD 1 = false ∧ v.getLsbD 0 = true ∧ s.status.busy = false) := by
  rcases writeReg_cases v s r with h | ⟨ops, h⟩ | ⟨i, e, h, -⟩ | ⟨-, h⟩ | ⟨hr, h⟩ <;> rw [h]
  · exact .inl rfl
  · exact .inl rfl
  · exact .inl rfl
  · exact .inl rfl
  · rcases writeCtrl_cases v s with ⟨hreset, hc⟩ | ⟨-, -, -, hc⟩ | ⟨hreset, hstart, hidle, -⟩ | ⟨-, -, hc⟩
    · exact .inr ⟨hr, .inl ⟨hreset, by rw [hc]; rfl⟩⟩
    · exact .inl (by rw [hc]; rfl)
    · exact .inr ⟨hr, .inr ⟨hreset, hstart, hidle⟩⟩
    · exact .inl (by rw [hc]; rfl)

/-- A host access keeps BUSY, but for a CTRL write that resets the block or starts a command. -/
theorem hostAccess_busy {t : BusTxn} {s s' : State} (h : hostAccess t s = .next s') :
    s'.status.busy = s.status.busy
      ∨ ∃ v, t = .regWrite 0x000#12 .w32 v
        ∧ (v.getLsbD 1 = true ∧ s'.status.busy = false
          ∨ v.getLsbD 1 = false ∧ v.getLsbD 0 = true ∧ s.status.busy = false) := by
  obtain ⟨s1, r, rfl,
    rfl | ⟨rfl, -⟩ | ⟨off, width, v, reg, rfl, hreg, rfl⟩ | ⟨a, b, -, -, -, rfl⟩ | ⟨a, b, -, -, -, rfl⟩⟩ :=
    hostAccess_next_cases h
  · exact .inl rfl
  · exact .inl rfl
  · rcases writeReg_busy v s reg with hkept | ⟨rfl, hctrl⟩
    · exact .inl hkept
    · obtain ⟨rfl, rfl⟩ := regWrite_ctrl_of_next h hreg
      exact .inr ⟨v, rfl, hctrl⟩
  · exact .inl rfl
  · exact .inl rfl

/-- A step keeps BUSY, but for COMPLETE, a power-on reset, and the two kinds of CTRL write of `hostAccess_busy`. -/
theorem step_busy {s s' : State} (h : step s = .next s') :
    s'.status.busy = s.status.busy
      ∨ completeDue s = true
      ∨ (∃ rest, s.host = .powerOn :: rest) ∧ s'.status.busy = false
      ∨ ∃ v rest, s.host = .access (.regWrite 0x000#12 .w32 v) :: rest
        ∧ (v.getLsbD 1 = true ∧ s'.status.busy = false
          ∨ v.getLsbD 1 = false ∧ v.getLsbD 0 = true ∧ s.status.busy = false) := by
  rcases step_cases s with
    ⟨hdue, -⟩ | ⟨-, ⟨-, hstep⟩ | ⟨t, rest, hhost, hstep⟩ | ⟨rest, -, hstep⟩ | ⟨rest, hhost, hstep⟩⟩
  · exact .inr (.inl hdue)
  · cases hstep.symm.trans h
    exact .inl rfl
  · rcases hostAccess_busy (hstep.symm.trans h) with hkept | ⟨v, rfl, hctrl⟩
    · exact .inl hkept
    · exact .inr (.inr (.inr ⟨v, rest, hhost, hctrl⟩))
  · cases hstep.symm.trans h
    exact .inl (by rw [hostPoll_status]; rfl)
  · cases hstep.symm.trans h
    exact .inr (.inr (.inl ⟨⟨rest, hhost⟩, rfl⟩))

/-- Settles O55: `step_busy`, read once for the rise and once for the fall. -/
theorem busyTransitions : Obligations.BusyTransitions := by
  intro s s' h
  constructor
  · intro hidle hrise
    rcases step_busy h with hkept | hdue | ⟨-, hfall⟩ | ⟨v, rest, hhost, ⟨-, hfall⟩ | ⟨hreset, hstart, -⟩⟩
    · simp [hkept, hidle] at hrise
    · simp [completeDue, hidle] at hdue
    · simp [hfall] at hrise
    · simp [hfall] at hrise
    · exact ⟨v, rest, hhost, hstart, hreset⟩
  · intro hbusy hfall
    rcases step_busy h with hkept | hdue | ⟨hpower, -⟩ | ⟨v, rest, hhost, ⟨hreset, -⟩ | ⟨-, -, hidle⟩⟩
    · simp [hkept, hbusy] at hfall
    · exact .inl hdue
    · exact .inr (.inl hpower)
    · exact .inr (.inr ⟨v, rest, hhost, hreset⟩)
    · simp [hbusy] at hidle

/-! ## The invariant -/

theorem Status.Sound.reset : Status.reset.Sound := by
  simp [Status.Sound]

theorem Status.Sound.started (st : Status) : st.started.Sound := by
  simp [Status.Sound]

theorem Status.Sound.writeOneToClear {st : Status} (h : st.Sound) (v : Word) : (st.writeOneToClear v).Sound := by
  obtain ⟨hexclusive, hbusy, hdone, herr⟩ := h
  simp only [Status.Sound, Status.writeOneToClear_busy, Status.writeOneToClear_done, Status.writeOneToClear_err,
    Status.writeOneToClear_errcode, Bool.and_eq_true]
  refine ⟨fun ⟨⟨hd, _⟩, he, _⟩ => hexclusive ⟨hd, he⟩, fun hb => ?_, fun ⟨hd, _⟩ => hdone hd, fun ⟨he, _⟩ => herr he⟩
  obtain ⟨hd, he, hcode⟩ := hbusy hb
  simp [hd, he, hcode]

theorem Status.Sound.completedOk {st : Status} (h : st.Sound) (hbusy : st.busy = true) : st.completedOk.Sound := by
  obtain ⟨-, hrunning, -, -⟩ := h
  obtain ⟨-, herr, hcode⟩ := hrunning hbusy
  simp [Status.Sound, herr, hcode]

theorem Status.Sound.completedErr {st : Status} (h : st.Sound) (hbusy : st.busy = true) {code : ErrCode}
    (hcode : code ≠ .noError) : (st.completedErr code).Sound := by
  obtain ⟨-, hrunning, -, -⟩ := h
  obtain ⟨hdone, -, -⟩ := hrunning hbusy
  simp [Status.Sound, hdone, hcode]

theorem OptTable.Sound.reset : OptTable.Sound OptTable.reset := by
  intro i _
  simp [OptTable.reset]

namespace State.Inv

variable {s s' : State}

theorem respond (h : s.Inv) (r : Option Word) : (s.respond r).Inv := h

theorem hostTurn (h : s.Inv) (rest : List HostReq) : (Machine.hostTurn rest s).Inv := h

theorem hostPoll (h : s.Inv) (rest : List HostReq) : (Machine.hostPoll rest s).Inv := by
  rw [hostPoll_eq]
  exact h

/-- A change of STATUS that leaves it sound keeps the invariant. -/
theorem withStatus (h : s.Inv) {st : Status} (hst : st.Sound) : State.Inv { s with status := st } := by
  obtain ⟨hcfg, hsrc, hsrcIn, hdst, hdstIn, -, hrest⟩ := h
  exact ⟨hcfg, hsrc, hsrcIn, hdst, hdstIn, hst, hrest⟩

/-- A change of the opcode table that leaves it sound keeps the invariant. -/
theorem withOpt (h : s.Inv) {t : OptTable} (ht : t.Sound) : State.Inv { s with opt := t } := by
  obtain ⟨hcfg, hsrc, hsrcIn, hdst, hdstIn, hst, -, hrest⟩ := h
  exact ⟨hcfg, hsrc, hsrcIn, hdst, hdstIn, hst, ht, hrest⟩

theorem withSrc (h : s.Inv) {m : Memory} (hwf : m.wf) (hin : m.within s.cfg.srcSize.toNat) :
    State.Inv { s with src := m } := by
  obtain ⟨hcfg, -, -, hrest⟩ := h
  exact ⟨hcfg, hwf, hin, hrest⟩

theorem withDst (h : s.Inv) {m : Memory} (hwf : m.wf) (hin : m.within s.cfg.dstSize.toNat) :
    State.Inv { s with dst := m } := by
  obtain ⟨hcfg, hsrc, hsrcIn, -, -, hrest⟩ := h
  exact ⟨hcfg, hsrc, hsrcIn, hwf, hin, hrest⟩

/-- START latches a table that is sound (R67, R70). -/
theorem start (h : s.Inv) : (Machine.start s).Inv := by
  obtain ⟨hcfg, hsrc, hsrcIn, hdst, hdstIn, -, hopt, -, hout⟩ := h
  exact ⟨hcfg, hsrc, hsrcIn, hdst, hdstIn, .started _, hopt, hopt, hout⟩

theorem softReset (h : s.Inv) : (Machine.softReset s).Inv := by
  obtain ⟨m, n, heq, hwf, hin⟩ := exists_softReset_eq s
  obtain ⟨hcfg, hsrc, hsrcIn, hdst, hdstIn, -, hopt, hlatch, -⟩ := h
  rw [heq]
  exact ⟨hcfg, hsrc, hsrcIn, hwf hdst, hin hdstIn, .reset, hopt, hlatch, Nat.zero_le _⟩

theorem powerOnReset (h : s.Inv) : (Machine.powerOnReset s).Inv := by
  obtain ⟨hcfg, -⟩ := h
  exact ⟨hcfg, .nil, by simp [State.reset], .nil, by simp [State.reset], .reset, .reset, .reset, Nat.zero_le _⟩

theorem writeCtrl (h : s.Inv) (v : Word) : (Machine.writeCtrl v s).Inv := by
  have hirq : (s.withIrqEn (v.getLsbD 2)).Inv := h
  rcases writeCtrl_cases v s with ⟨-, hc⟩ | ⟨-, -, -, hc⟩ | ⟨-, -, -, hc⟩ | ⟨-, -, hc⟩ <;> rw [hc]
  · exact h.softReset
  · exact hirq
  · exact hirq.start
  · exact hirq

theorem writeReg (h : s.Inv) (v : Word) (r : Reg) : (Machine.writeReg v s r).Inv := by
  have ⟨_, _, _, _, _, hst, hopt, _, _⟩ := h
  rcases writeReg_cases v s r with hw | ⟨ops, hw⟩ | ⟨i, e, hw, he⟩ | ⟨-, hw⟩ | ⟨-, hw⟩ <;> rw [hw]
  · exact h
  · exact h
  · exact h.withOpt (OptTable.Updated.sound (.inr ⟨i, e, rfl, he⟩) hopt)
  · exact h.withStatus (hst.writeOneToClear v)
  · exact h.writeCtrl v

theorem hostAccess (h : s.Inv) {t : BusTxn} (hnext : Machine.hostAccess t s = .next s') : s'.Inv := by
  have ⟨_, hsrc, hsrcIn, hdst, hdstIn, _⟩ := h
  obtain ⟨s1, r, rfl,
    rfl | ⟨rfl, -⟩ | ⟨off, width, v, reg, -, -, rfl⟩ | ⟨a, b, -, ha, -, rfl⟩ | ⟨a, b, -, ha, -, rfl⟩⟩ :=
    hostAccess_next_cases hnext
  · exact h
  · exact h
  · exact h.writeReg v reg
  · exact h.withSrc (Memory.wf_write hsrc) (Memory.within_write hsrcIn ha)
  · exact h.withDst (Memory.wf_write hdst) (Memory.within_write hdstIn ha)

/-- COMPLETE keeps the invariant: the output fits DST, and an error's code is not 0x00 (R71; 60_exceptions.md R228). -/
theorem complete (h : s.Inv) (hbusy : s.status.busy = true) (hnext : Machine.complete s = .next s') : s'.Inv := by
  obtain ⟨hcfg, hsrc, hsrcIn, hdst, hdstIn, hst, hopt, hlatch, -⟩ := h
  rw [complete_eq_commit] at hnext
  rcases commit_next_cases hnext with ⟨out, size, aux, hr, rfl⟩ | ⟨code, hr, rfl⟩
  · have hfits := latchedResult_ok_fits hr
    have hlen : (BitVec.ofNat 32 out.length).toNat ≤ out.length := by
      rw [BitVec.toNat_ofNat]
      exact Nat.mod_le _ _
    exact ⟨hcfg, hsrc, hsrcIn, Memory.wf_writeBytes hdst, Memory.within_writeBytes hdstIn hfits, hst.completedOk hbusy,
      hopt, hlatch, hlen.trans (by simp only [commitOk_cfg]; omega)⟩
  · exact ⟨hcfg, hsrc, hsrcIn, hdst, hdstIn, hst.completedErr hbusy (latchedResult_err_ne_noError hr), hopt, hlatch,
      Nat.zero_le _⟩

end State.Inv

/-- Settles O58: COMPLETE and each of the host's steps keep the invariant. -/
theorem everyStepKeepsTheInvariant : Obligations.EveryStepKeepsTheInvariant := by
  intro s s' hinv h
  rcases step_cases s with
    ⟨hdue, hstep⟩ | ⟨-, ⟨-, hstep⟩ | ⟨t, rest, -, hstep⟩ | ⟨rest, -, hstep⟩ | ⟨rest, -, hstep⟩⟩
  · exact hinv.complete (completeDue_iff.mp hdue).1 (hstep.symm.trans h)
  · cases hstep.symm.trans h
    exact hinv
  · exact (hinv.hostTurn rest).hostAccess (hstep.symm.trans h)
  · cases hstep.symm.trans h
    exact (hinv.hostTurn _).hostPoll rest
  · cases hstep.symm.trans h
    exact (hinv.hostTurn rest).powerOnReset

/-! ## A running command and the host (R67; 20_memory.md R97; 70_reset_and_hazards.md R288) -/

/-- The command that runs in `s` runs on in `s'`: BUSY stays 1, and all that its COMPLETE step reads, the results that the
host can read, and ERRCODE are the same. -/
structure State.RunsOn (s s' : State) : Prop where
  busy : s'.status.busy = true
  cfg : s'.cfg = s.cfg
  latch : s'.latch = s.latch
  src : s'.src = s.src
  dst : s'.dst = s.dst
  outLen : s'.outLen = s.outLen
  sizeField : s'.sizeField = s.sizeField
  auxCount : s'.auxCount = s.auxCount
  errcode : s'.status.errcode = s.status.errcode

theorem State.RunsOn.refl {s : State} (hbusy : s.status.busy = true) : s.RunsOn s :=
  ⟨hbusy, rfl, rfl, rfl, rfl, rfl, rfl, rfl, rfl⟩

theorem State.RunsOn.trans {s s' s'' : State} (h : s.RunsOn s') (h' : s'.RunsOn s'') : s.RunsOn s'' :=
  ⟨h'.busy, h'.cfg.trans h.cfg, h'.latch.trans h.latch, h'.src.trans h.src, h'.dst.trans h.dst, h'.outLen.trans h.outLen,
    h'.sizeField.trans h.sizeField, h'.auxCount.trans h.auxCount, h'.errcode.trans h.errcode⟩

theorem State.RunsOn.latchedResult {s s' : State} (h : s.RunsOn s') :
    Machine.latchedResult s'.cfg s'.latch s'.src = Machine.latchedResult s.cfg s.latch s.src := by
  rw [h.cfg, h.latch, h.src]

/-- A command that runs on completes with the same output and the same results. -/
theorem State.RunsOn.complete {s s' t t' : State} (h : s.RunsOn s') (ht : Machine.complete s = .next t)
    (ht' : Machine.complete s' = .next t') :
    t'.dst = t.dst ∧ t'.outLen = t.outLen ∧ t'.sizeField = t.sizeField ∧ t'.auxCount = t.auxCount := by
  rw [complete_eq_commit] at ht ht'
  rw [h.latchedResult] at ht'
  rcases commit_next_cases ht with ⟨out, size, aux, hr, rfl⟩ | ⟨code, hr, rfl⟩
  · rw [hr] at ht'
    cases ht'
    exact ⟨by rw [commitOk_dst, commitOk_dst, h.dst, h.latch], rfl, rfl, rfl⟩
  · rw [hr] at ht'
    cases ht'
    exact ⟨h.dst, rfl, rfl, rfl⟩

/-- A register write that does not reset a running block changes IRQ_EN, flags, the operand registers or the opcode table at
most (70_reset_and_hazards.md R285, R288). -/
theorem writeReg_runsOn {s : State} (hbusy : s.status.busy = true) {v : Word} {r : Reg}
    (hkeeps : r = .ctrl → v.getLsbD 1 = false) :
    s.RunsOn (writeReg v s r) ∧ (writeReg v s r).host = s.host ∧ (writeReg v s r).delay = s.delay := by
  have hsame := State.RunsOn.refl hbusy
  rcases writeReg_cases v s r with h | ⟨ops, h⟩ | ⟨i, e, h, -⟩ | ⟨-, h⟩ | ⟨hr, h⟩ <;> rw [h]
  · exact ⟨hsame, rfl, rfl⟩
  · exact ⟨{ hsame with }, rfl, rfl⟩
  · exact ⟨{ hsame with }, rfl, rfl⟩
  · exact ⟨{ hsame with }, rfl, rfl⟩
  · rcases writeCtrl_cases v s with ⟨hreset, -⟩ | ⟨-, -, -, hc⟩ | ⟨-, -, hidle, -⟩ | ⟨-, -, hc⟩
    · exact absurd hreset (by rw [hkeeps hr]; decide)
    · rw [hc]
      exact ⟨{ hsame with }, rfl, rfl⟩
    · simp [hbusy] at hidle
    · rw [hc]
      exact ⟨{ hsame with }, rfl, rfl⟩

/-- A host access that is no reset lets the running command run on, and does not touch the schedule. -/
theorem hostAccess_runsOn {t : BusTxn} {s s' : State} (hbusy : s.status.busy = true)
    (hkeeps : (HostReq.access t).keepsRunning = true) (h : hostAccess t s = .next s') :
    s.RunsOn s' ∧ s'.host = s.host ∧ s'.delay = s.delay := by
  have hsame := State.RunsOn.refl hbusy
  obtain ⟨s1, r, rfl,
    rfl | ⟨rfl, -⟩ | ⟨off, width, v, reg, rfl, hreg, rfl⟩ | ⟨a, b, -, -, hidle, -⟩ | ⟨a, b, -, -, hidle, -⟩⟩ :=
    hostAccess_next_cases h
  · exact ⟨{ hsame with }, rfl, rfl⟩
  · exact ⟨{ hsame with }, rfl, rfl⟩
  · have hnoReset : reg = .ctrl → v.getLsbD 1 = false := by
      rintro rfl
      simpa [HostReq.keepsRunning, hreg] using hkeeps
    obtain ⟨hruns, hhost, hdelay⟩ := writeReg_runsOn hbusy hnoReset
    exact ⟨{ hruns with }, hhost, hdelay⟩
  · simp [hbusy] at hidle
  · simp [hbusy] at hidle

/-- Settles O54. -/
theorem hostCannotDisturbARunningCommand : Obligations.HostCannotDisturbARunningCommand := by
  intro t s s' hbusy hkeeps h
  obtain ⟨hruns, -⟩ := hostAccess_runsOn hbusy hkeeps h
  exact ⟨hruns.busy, hruns.cfg, hruns.latch, hruns.src, hruns.dst, hruns.outLen, hruns.sizeField, hruns.auxCount,
    hruns.errcode⟩

/-- A host request that is no reset, made before COMPLETE is due, lets the running command run on and takes one from the
delay; a poll stays pending. -/
theorem step_runsOn {s s' : State} {req : HostReq} {rest : List HostReq} (hbusy : s.status.busy = true)
    (hdelay : s.delay ≠ 0) (hhost : s.host = req :: rest) (hkeeps : req.keepsRunning = true) (h : step s = .next s') :
    s.RunsOn s' ∧ s'.delay = s.delay - 1 ∧ (s'.host = rest ∨ s'.host = req :: rest) := by
  have hsame := State.RunsOn.refl hbusy
  rcases step_cases s with
    ⟨hdue, -⟩ | ⟨-, ⟨hnone, -⟩ | ⟨t, rest', hhost', hstep⟩ | ⟨rest', hhost', hstep⟩ | ⟨rest', hhost', hstep⟩⟩
  · obtain ⟨-, hdue⟩ := completeDue_iff.mp hdue
    simp [hdelay, hhost] at hdue
  · simp [hhost] at hnone
  · cases hhost.symm.trans hhost'
    obtain ⟨hruns, hrest, hd⟩ := hostAccess_runsOn (s := hostTurn rest s) hbusy hkeeps (hstep.symm.trans h)
    exact ⟨{ hruns with }, hd, .inl hrest⟩
  · cases hhost.symm.trans hhost'
    cases hstep.symm.trans h
    rw [hostPoll_eq]
    exact ⟨{ hsame with }, rfl, .inr (if_pos hbusy)⟩
  · cases hhost.symm.trans hhost'
    cases hkeeps

/-- However many host requests come before COMPLETE, the command runs on; by induction on their number. -/
theorem sysRun_runsOn {n : Nat} {s s' : State} (hbusy : s.status.busy = true) (hdelay : n ≤ s.delay)
    (hlen : n ≤ s.host.length) (hkeeps : ∀ r ∈ s.host.take n, r.keepsRunning = true) (h : sysRun n s = .next s') :
    s.RunsOn s' := by
  induction n generalizing s with
  | zero =>
    cases h
    exact .refl hbusy
  | succ n ih =>
    obtain ⟨s1, hstep, hrun⟩ := sysRun_succ_next h
    cases hhost : s.host with
    | nil => simp [hhost] at hlen
    | cons req rest =>
      rw [hhost] at hlen hkeeps
      simp only [List.length_cons] at hlen
      obtain ⟨hruns, hd, hpending⟩ := step_runsOn hbusy (by omega) hhost (hkeeps req (by simp)) hstep
      refine hruns.trans (ih hruns.busy (by omega) ?_ ?_ hrun)
      · rcases hpending with hp | hp <;> rw [hp]
        · omega
        · simp only [List.length_cons]; omega
      · rcases hpending with hp | hp <;> rw [hp] <;> intro r hr
        · exact hkeeps r (List.mem_cons_of_mem req hr)
        · exact hkeeps r (List.take_subset_take_left (req :: rest) (Nat.le_succ n) hr)

/-- Settles O60: the command runs on through the `n` requests, so that its COMPLETE computes and writes the same. -/
theorem resultIsIndependentOfTheSchedule : Obligations.ResultIsIndependentOfTheSchedule := by
  intro n s s' hbusy hdelay hlen hkeeps h
  have hruns := sysRun_runsOn hbusy hdelay hlen hkeeps h
  exact ⟨hruns.busy, hruns.latchedResult, hruns.dst, fun _ _ => hruns.complete⟩

end Sys2Proof.Machine
end

section
/-!
PROOFS, family 20_memory.md: the accesses that read or store no byte (R83, R86), and the model-only fault of a command that
reads an SRC byte never written (R87).
-/
namespace Sys2Proof.Machine

/-! ## Undefined register accesses (R86) and accesses beyond a memory (R83) -/

/-- Settles O48: both directions ask first whether the access is an aligned 32-bit access. -/
theorem undefinedRegisterAccessFaults : Obligations.UndefinedRegisterAccessFaults := by
  intro off width v s hundefined
  have hrefused : ¬ registerAccessDefined off width = true := fun hdefined => by
    obtain ⟨hwidth, haligned⟩ := registerAccessDefined_iff.mp hdefined
    exact hundefined.elim (· hwidth) (· haligned)
  exact ⟨if_neg hrefused, if_neg hrefused⟩

/-- Settles O49: each of the four accesses compares its offset with the size before it looks at BUSY or at the byte. -/
theorem accessBeyondMemoryHasNoEffect : Obligations.AccessBeyondMemoryHasNoEffect := by
  intro a b s
  constructor <;> intro hbeyond
  · have houtside : ¬ a < s.cfg.srcSize.toNat := Nat.not_lt.mpr hbeyond
    exact ⟨if_neg houtside, congrArg Host.Outcome.next (if_neg houtside)⟩
  · have houtside : ¬ a < s.cfg.dstSize.toNat := Nat.not_lt.mpr hbeyond
    exact ⟨if_neg houtside, congrArg Host.Outcome.next (if_neg houtside)⟩

/-! ## What an unwritten byte leaves unread (R87) -/

/-- A range with an unwritten byte in it does not read (R87). -/
theorem Memory.readBytes_eq_none_of_read {m : Memory} {a n i : Nat} (hi : i < n) (h : m.read (a + i) = none) :
    m.readBytes a n = none := by
  cases hread : m.readBytes a n with
  | none => rfl
  | some bs =>
    rw [Memory.read_of_readBytes hread hi, List.getElem?_eq_none_iff, Memory.length_readBytes hread] at h
    omega

/-- A range that is not wholly written has an unwritten byte. -/
theorem Memory.exists_unwritten {m : Memory} {a n : Nat} (h : ¬ m.Written a n) : ∃ i < n, m.read (a + i) = none := by
  simpa using h

theorem Memory.readBytes_eq_none_of_not_written {m : Memory} {a n : Nat} (h : ¬ m.Written a n) :
    m.readBytes a n = none := by
  obtain ⟨i, hi, hnone⟩ := Memory.exists_unwritten h
  exact Memory.readBytes_eq_none_of_read hi hnone

section Collect

variable {α β : Type}

theorem collect_eq_none {f : Nat → Option (List α)} {n i : Nat} (hi : i < n) (h : f i = none) : collect f n = none := by
  induction n with
  | zero => omega
  | succ n ih =>
    rcases Nat.lt_succ_iff_lt_or_eq.mp hi with hlt | rfl
    · simp only [collect, ih hlt]
    · simp only [collect, h]
      cases collect f i <;> rfl

theorem collectList_eq_none {f : β → Option (List α)} {xs : List β} {x : β} (hx : x ∈ xs) (h : f x = none) :
    collectList f xs = none := by
  induction xs with
  | nil => cases hx
  | cons y ys ih =>
    rcases List.mem_cons.mp hx with rfl | hx
    · simp only [collectList, h]
    · simp only [collectList, ih hx]
      cases f y <;> rfl

end Collect

/-! ## The frame commands on an unwritten byte (O24) -/

/-- Each FRAME.<op> command is the commit of the result that the ten share, at its entry (40_frame_codec.md R137 to
R146). -/
theorem exec_frameCommand {p : (Byte → Instr) × Fin 10} (hp : p ∈ frameCommands) (pad : Byte) (s : State) :
    exec (p.1 pad) s = commit (frameOpResult p.2 pad s.cfg s.latch s.src) s := by
  revert p
  simp only [frameCommands, List.forall_mem_cons]
  exact ⟨rfl, rfl, rfl, rfl, rfl, rfl, rfl, rfl, rfl, rfl, List.forall_mem_nil _⟩

theorem frameLength_eq (n : Nat) : frameLength n = 250 * ((n + 249) / 250) := by
  unfold frameLength ceilDiv blockSize
  omega

section Results

variable {c : Config} {l : Latch} {src : Memory}

/-- A frame that fits DST and has an unreadable part stops (R135, R136). -/
theorem frameResult_fault {pad : Byte} {n : Nat} {op : Option (List Byte)}
    (hdst : inRange l.ops.dstAddr.toNat (frameLength n) c.dstSize)
    (h : op = none ∨ src.readBytes l.ops.plAddr.toNat l.ops.plLen.toNat = none) :
    frameResult c l src pad n op = .fault .engineSrcUnwritten := by
  simp only [frameResult, if_neg (not_not.mpr hdst)]
  rcases h with rfl | hpl
  · rfl
  · cases op with
    | none => rfl
    | some op => simp only [hpl]

/-- FRAME.RAW past its two range checks (R135). -/
theorem frameRawResult_of_inRange {pad : Byte} (hop : inRange l.ops.srcAddr.toNat l.ops.srcLen.toNat c.srcSize)
    (hpl : inRange l.ops.plAddr.toNat l.ops.plLen.toNat c.srcSize) :
    frameRawResult pad c l src
      = frameResult c l src pad (l.ops.srcLen.toNat + l.ops.plLen.toNat)
          (src.readBytes l.ops.srcAddr.toNat l.ops.srcLen.toNat) := by
  rw [frameRawResult, if_neg (not_not.mpr hop), if_neg (not_not.mpr hpl)]

/-- FRAME.<op> past its first two checks (R136). -/
theorem frameOpResult_of_inRange {i : Fin 10} {pad : Byte} (hvalid : (l.opt[i]).valid = true)
    (hpl : inRange l.ops.plAddr.toNat l.ops.plLen.toNat c.srcSize) :
    frameOpResult i pad c l src
      = frameResult c l src pad ((l.opt[i]).len.val + l.ops.plLen.toNat) (some (l.opt.opcodeBytes i)) := by
  simp only [frameOpResult, if_neg (ne_false_of_eq_true hvalid), if_neg (not_not.mpr hpl)]

end Results

/-- Settles O24: past the checks, the unwritten byte leaves the opcode or the payload unread. -/
theorem frameFaultsOnUnwrittenBytes : Obligations.FrameFaultsOnUnwrittenBytes := by
  constructor
  · intro pad s o hop hpl hdst hunwritten
    have hunread : s.src.readBytes o.srcAddr.toNat o.srcLen.toNat = none
        ∨ s.src.readBytes o.plAddr.toNat o.plLen.toNat = none :=
      (not_and_or.mp hunwritten).imp Memory.readBytes_eq_none_of_not_written Memory.readBytes_eq_none_of_not_written
    rw [← frameLength_eq] at hdst
    rw [exec_eq_commit, execute, frameRawResult_of_inRange hop hpl, frameResult_fault hdst hunread, commit]
  · intro p hp pad s o e hvalid hpl hdst hunwritten
    rw [← frameLength_eq] at hdst
    rw [exec_frameCommand hp, frameOpResult_of_inRange hvalid hpl,
      frameResult_fault hdst (.inr (Memory.readBytes_eq_none_of_not_written hunwritten)), commit]

/-! ## The encoder commands on an unwritten byte (O25) -/

section Results

variable {c : Config} {l : Latch} {src : Memory}

/-- A pixel of 3 or 4 bytes with an unwritten byte is not normalised (41_image_encoder.md R170). -/
theorem normalizedPixel_eq_none {k j : Nat} (hch : l.channelCount = 3 ∨ l.channelCount = 4) (hj : j < l.channelCount)
    (h : src.read (l.ops.srcAddr.toNat + l.channelCount * k + j) = none) : normalizedPixel l src k = none := by
  have hunread := Memory.readBytes_eq_none_of_read hj h
  rcases hch with hC | hC <;> rw [hC] at hunread
  · rw [normalizedPixel, if_neg (by omega), hunread]
  · rw [normalizedPixel, if_pos hC, hunread]

/-- A buffer that is not wholly written is not normalised: byte `k` of it is byte `k mod C` of pixel `k / C` (R170;
20_memory.md R89). -/
theorem normalize4_eq_none (hch : l.channelCount = 3 ∨ l.channelCount = 4)
    (h : ¬ src.Written l.ops.srcAddr.toNat (l.width * l.height * l.channelCount)) : normalize4 l src = none := by
  obtain ⟨k, hk, hnone⟩ := Memory.exists_unwritten h
  have hpos : 0 < l.channelCount := by omega
  refine collect_eq_none (Nat.div_lt_of_lt_mul (by rwa [Nat.mul_comm])) (normalizedPixel_eq_none hch (Nat.mod_lt k hpos) ?_)
  rw [Nat.add_assoc, Nat.div_add_mod, hnone]

theorem mem_channels (o : ChOrder) {k : Nat} (hk : k < 3) : k ∈ o.channels := by
  rw [(channels_perm o).mem_iff]
  interval_cases k <;> simp

/-- An unwritten channel leaves its pixel without text (R177). -/
theorem pixelText_eq_none {h w k : Nat} (hk : k < 3) (hnone : pixel l src h w k = none) :
    pixelText c l src h w = none :=
  collectList_eq_none (mem_channels c.chOrder hk) (by rw [channelText, hnone])

/-- An unwritten channel leaves its row without text. -/
theorem rowText_eq_none {h w k : Nat} (hw : w < l.width) (hk : k < 3) (hnone : pixel l src h w k = none) :
    rowText c l src h = none := by
  rw [rowText, collect_eq_none hw (pixelText_eq_none hk hnone)]

/-- An image with an unwritten channel among those ENC.UPDATE reads has no update text (R178). -/
theorem updateText_eq_none (h : ¬ l.ChannelsWritten src) : updateText c l src = none := by
  obtain ⟨r, hr, w, hw, k, hk, hnone⟩ : ∃ r < l.height, ∃ w < l.width, ∃ k < 3, pixel l src r w k = none := by
    simpa using h
  exact collect_eq_none hr (rowText_eq_none hw hk hnone)

theorem imageError_eq_none (hw : l.width ≠ 0) (hh : l.height ≠ 0) (hch : l.channelCount = 3 ∨ l.channelCount = 4) :
    imageError l = none := by
  rw [imageError, if_neg (by tauto), if_neg (by tauto)]

/-- ENC.FULL past its checks on a buffer that does not read (R174). -/
theorem encFullResult_fault (himage : imageError l = none)
    (hsrc : inRange l.ops.srcAddr.toNat l.bufferLength c.srcSize)
    (hdst : inRange l.ops.dstAddr.toNat (4 * l.width * l.height + fullSeparators (4 * l.width * l.height)) c.dstSize)
    (hpx : normalize4 l src = none) : encFullResult c l src = .fault .engineSrcUnwritten := by
  simp only [encFullResult, himage, if_neg (not_not.mpr hsrc), if_neg (not_not.mpr hdst), hpx]

/-- ENC.UPDATE past its checks on an image that has no update text (R184). -/
theorem encUpdateResult_fault (himage : imageError l = none) (hfields : fieldsFit c l)
    (hsrc : inRange l.ops.srcAddr.toNat l.bufferLength c.srcSize)
    (hdst : inRange l.ops.dstAddr.toNat (updateLength c l) c.dstSize)
    (htext : updateText c l src = none) : encUpdateResult c l src = .fault .engineSrcUnwritten := by
  simp only [encUpdateResult, himage, if_neg (not_not.mpr hfields), if_neg (not_not.mpr hsrc),
    if_neg (not_not.mpr hdst), htext]

end Results

/-- Settles O25: past the checks, the unwritten byte leaves the buffer unnormalised, or the image without update text. -/
theorem encoderFaultsOnUnwrittenPixels : Obligations.EncoderFaultsOnUnwrittenPixels := by
  intro s l N hw hh hch hsrc
  have himage := imageError_eq_none hw hh hch
  constructor
  · intro hdst hunwritten
    rw [exec_eq_commit, execute, encFullResult_fault himage hsrc hdst (normalize4_eq_none hch hunwritten), commit]
  · intro hfields hdst hunwritten
    rw [exec_eq_commit, execute, encUpdateResult_fault himage hfields hsrc hdst (updateText_eq_none hunwritten), commit]

end Sys2Proof.Machine
end

section
/-!
PROOFS, family 30_encoding.md: the four fields of a command word (R100), the decoder and the encoder as inverses of each other
(R105, R111), and the words that no command has (R107).
-/
namespace Sys2Proof.Machine

/-! ## The fields of a command word (R100) -/

theorem toNat_cmdOp (w : Word) : (cmdOp w).toNat = w.toNat % 16 := by
  simp [cmdOp]

theorem toNat_cmdOpsel (w : Word) : (cmdOpsel w).toNat = w.toNat / 16 % 16 := by
  simp [cmdOpsel, Nat.shiftRight_eq_div_pow]

theorem toNat_cmdPad (w : Word) : (cmdPad w).toNat = w.toNat / 256 % 256 := by
  simp [cmdPad, Nat.shiftRight_eq_div_pow]

theorem toNat_cmdRsv (w : Word) : (cmdRsv w).toNat = w.toNat / 2 ^ 16 := by
  have hw := w.isLt
  simp only [cmdRsv, BitVec.extractLsb'_toNat, Nat.shiftRight_eq_div_pow]
  omega

/-- The four fields cover the word: no bit lies outside them. -/
theorem eq_of_fields_eq {w w' : Word} (hop : cmdOp w = cmdOp w') (hsel : cmdOpsel w = cmdOpsel w')
    (hpad : cmdPad w = cmdPad w') (hrsv : cmdRsv w = cmdRsv w') : w = w' := by
  rw [← BitVec.toNat_inj] at hop hsel hpad hrsv ⊢
  rw [toNat_cmdOp, toNat_cmdOp] at hop
  rw [toNat_cmdOpsel, toNat_cmdOpsel] at hsel
  rw [toNat_cmdPad, toNat_cmdPad] at hpad
  rw [toNat_cmdRsv, toNat_cmdRsv] at hrsv
  omega

/-- A PAD byte moved to its place has no bit in a field that ends below bit 8 or begins above bit 15. -/
theorem extractLsb'_padWord_outside {start len : Nat} (pad : Byte) (low : Word) (h : start + len ≤ 8 ∨ 16 ≤ start) :
    (padWord pad low).extractLsb' start len = low.extractLsb' start len := by
  ext i hi
  simp only [padWord, BitVec.getElem_extractLsb', BitVec.getLsbD_or, BitVec.getLsbD_shiftLeft, BitVec.getLsbD_setWidth]
  rcases h with hbelow | habove
  · have hi8 : start + i < 8 := by omega
    simp [hi8]
  · simp [BitVec.getLsbD_of_ge pad (start + i - 8) (by omega)]

theorem cmdOp_padWord (pad : Byte) (low : Word) : cmdOp (padWord pad low) = cmdOp low :=
  extractLsb'_padWord_outside pad low (.inl (by decide))

theorem cmdOpsel_padWord (pad : Byte) (low : Word) : cmdOpsel (padWord pad low) = cmdOpsel low :=
  extractLsb'_padWord_outside pad low (.inl (by decide))

theorem cmdRsv_padWord (pad : Byte) (low : Word) : cmdRsv (padWord pad low) = cmdRsv low :=
  extractLsb'_padWord_outside pad low (.inr (by decide))

theorem cmdPad_padWord (pad : Byte) {low : Word} (hlow : cmdPad low = 0#8) : cmdPad (padWord pad low) = pad := by
  have hpad : cmdPad (padWord pad low) = pad ||| cmdPad low := by
    ext i hi
    simp [cmdPad, padWord, hi, show 8 + i < 32 by omega]
  rw [hpad, hlow, BitVec.or_zero]

/-! ## What the decoder answers, field by field (R101 to R105) -/

theorem exists_frameOfEntry_eq_ok_iff {sel : BitVec 4} {pad : Byte} :
    (∃ i, frameOfEntry sel pad = .ok i) ↔ sel.toNat < 10 := by
  unfold frameOfEntry
  split
  case h_11 =>
    simp_all only [reduceCtorEq, exists_false, false_iff, imp_false]
    omega
  all_goals simp_all

theorem encoderCommand_eq_ok_iff {sel : BitVec 4} {pad : Byte} {c i : Instr} :
    encoderCommand sel pad c = .ok i ↔ sel = 0#4 ∧ pad = 0#8 ∧ c = i := by
  unfold encoderCommand
  split_ifs <;> simp_all

/-- The legal words and the command of each: a line of the encoding table per disjunct. -/
theorem decode_eq_ok_iff {w : Word} {i : Instr} :
    decode w = .ok i ↔
      cmdRsv w = 0#16 ∧
        (cmdOp w = 1#4 ∧ cmdOpsel w = 0#4 ∧ .frameRaw (cmdPad w) = i
          ∨ cmdOp w = 2#4 ∧ frameOfEntry (cmdOpsel w) (cmdPad w) = .ok i
          ∨ cmdOp w = 3#4 ∧ cmdOpsel w = 0#4 ∧ cmdPad w = 0#8 ∧ .encFull = i
          ∨ cmdOp w = 4#4 ∧ cmdOpsel w = 0#4 ∧ cmdPad w = 0#8 ∧ .encUpdate = i) := by
  by_cases hrsv : cmdRsv w = 0#16
  · simp only [decode, hrsv, ne_eq, not_true_eq_false, if_false, true_and, ← BitVec.toNat_inj (x := cmdOp w)]
    split <;> simp_all [encoderCommand_eq_ok_iff, ite_eq_iff]
  · simp [decode, hrsv]

/-- A word decodes or is illegal, never both. -/
theorem exists_decode_eq_error_iff {w : Word} : (∃ e, decode w = .error e) ↔ ¬ ∃ i, decode w = .ok i := by
  cases decode w <;> simp

theorem exists_decode_eq_ok_iff {w : Word} :
    (∃ i, decode w = .ok i) ↔
      cmdRsv w = 0#16 ∧
        (cmdOp w = 1#4 ∧ cmdOpsel w = 0#4 ∨ cmdOp w = 2#4 ∧ (cmdOpsel w).toNat < 10
          ∨ (cmdOp w = 3#4 ∨ cmdOp w = 4#4) ∧ cmdOpsel w = 0#4 ∧ cmdPad w = 0#8) := by
  simp only [decode_eq_ok_iff, exists_and_left, exists_or, exists_eq', exists_frameOfEntry_eq_ok_iff, and_true]
  tauto

/-! ## The decoder and the encoder are inverses (O1, O2, O4) -/

/-- A frame command's word holds its opcode-table entry in OPSEL and any PAD byte. -/
theorem decode_padWord_frame (pad : Byte) {low : Word} {i : Instr} (hrsv : cmdRsv low = 0#16) (hop : cmdOp low = 2#4)
    (hpad : cmdPad low = 0#8) (hentry : frameOfEntry (cmdOpsel low) pad = .ok i) : decode (padWord pad low) = .ok i := by
  rw [decode_eq_ok_iff, cmdRsv_padWord, cmdOp_padWord, cmdOpsel_padWord, cmdPad_padWord pad hpad]
  exact ⟨hrsv, .inr (.inl ⟨hop, hentry⟩)⟩

/-- Settles O1: FRAME.RAW and the encoder commands by their own lines of the table, each other command by its entry. -/
theorem decodeEncodeRoundTrip : Obligations.DecodeEncodeRoundTrip := by
  intro i
  cases i with
  | frameRaw pad =>
    exact decode_eq_ok_iff.mpr ⟨cmdRsv_padWord pad _,
      .inl ⟨cmdOp_padWord pad _, cmdOpsel_padWord pad _, congrArg Instr.frameRaw (cmdPad_padWord pad rfl)⟩⟩
  | encFull => rfl
  | encUpdate => rfl
  | _ => exact decode_padWord_frame _ rfl rfl rfl rfl

/-- The word of the command that an opcode-table entry names has the entry in OPSEL. -/
theorem fields_encode_of_frameOfEntry {sel : BitVec 4} {pad : Byte} {i : Instr} (h : frameOfEntry sel pad = .ok i) :
    cmdOp (encode i) = 2#4 ∧ cmdOpsel (encode i) = sel ∧ cmdPad (encode i) = pad ∧ cmdRsv (encode i) = 0#16 := by
  unfold frameOfEntry at h
  split at h
  case h_11 => cases h
  all_goals
    rename_i hsel
    cases h
    exact ⟨cmdOp_padWord pad _, (cmdOpsel_padWord pad _).trans (BitVec.eq_of_toNat_eq hsel.symm),
      cmdPad_padWord pad rfl, cmdRsv_padWord pad _⟩

/-- Settles O2: the encoding of the decoded command has the four fields of the word. -/
theorem decodedWordIsTheEncoding : Obligations.DecodedWordIsTheEncoding := by
  intro w i h
  obtain ⟨hrsv, ⟨hop, hsel, rfl⟩ | ⟨hop, hentry⟩ | ⟨hop, hsel, hpad, rfl⟩ | ⟨hop, hsel, hpad, rfl⟩⟩ := decode_eq_ok_iff.mp h
  · exact eq_of_fields_eq ((cmdOp_padWord _ _).trans hop.symm) ((cmdOpsel_padWord _ _).trans hsel.symm)
      (cmdPad_padWord _ rfl) ((cmdRsv_padWord _ _).trans hrsv.symm)
  · obtain ⟨hop', hsel', hpad', hrsv'⟩ := fields_encode_of_frameOfEntry hentry
    exact eq_of_fields_eq (hop'.trans hop.symm) hsel' hpad' (hrsv'.trans hrsv.symm)
  · exact eq_of_fields_eq hop.symm hsel.symm hpad.symm hrsv.symm
  · exact eq_of_fields_eq hop.symm hsel.symm hpad.symm hrsv.symm

/-- Settles O4: each of the thirteen legal words is the encoding of its command. -/
theorem writtenOutWordsDecode : Obligations.WrittenOutWordsDecode :=
  have decoded := decodeEncodeRoundTrip
  ⟨decoded (.frameRaw 0x2C#8), decoded (.frameGetDeviceInfo 0x00#8), decoded (.frameStopVideo 0x01#8),
    decoded (.frameDisplayFullImage 0x2C#8), decoded (.frameQueryRenderStatus 0x00#8),
    decoded (.frameUpdateImageRegion 0x80#8), decoded (.frameStopMedia 0xFF#8), decoded (.frameExit 0x00#8),
    decoded (.frameRestart 0x7F#8), decoded (.framePreImageMarker 0x00#8), decoded (.framePostImageMarker 0x00#8),
    decoded .encFull, decoded .encUpdate, rfl, rfl, rfl⟩

/-! ## Illegal words (O3) -/

/-- The COMPLETE step of a latched word that is no command (R222). -/
theorem complete_of_illegal {s : State} {e : Illegal} (h : decode s.latch.ops.cmd = .error e) :
    complete s = .next (commitErr .badCommand s) := by
  rw [complete, Latch.command, h]

/-- The legal words in the numbers of their fields (R105). -/
theorem exists_decode_eq_ok_iff_toNat {w : Word} :
    (∃ i, decode w = .ok i) ↔
      w.toNat / 2 ^ 16 = 0 ∧
        (w.toNat % 16 = 1 ∧ w.toNat / 16 % 16 = 0 ∨ w.toNat % 16 = 2 ∧ w.toNat / 16 % 16 < 10
          ∨ (w.toNat % 16 = 3 ∨ w.toNat % 16 = 4) ∧ w.toNat / 16 % 16 = 0 ∧ w.toNat / 256 % 256 = 0) := by
  simp only [exists_decode_eq_ok_iff, ← BitVec.toNat_inj, toNat_cmdOp, toNat_cmdOpsel, toNat_cmdPad, toNat_cmdRsv]
  rfl

/-- Settles O3: the illegal words are those without a line in `decode_eq_ok_iff`, and they end in CommitErr(BAD_COMMAND). -/
theorem illegalWordsAndTheirEnd : Obligations.IllegalWordsAndTheirEnd := by
  refine ⟨fun w => ?_, hostAccess_regWrite_offset .cmd, fun s ⟨e, h⟩ => complete_of_illegal h⟩
  rw [exists_decode_eq_error_iff, exists_decode_eq_ok_iff_toNat]
  omega

end Sys2Proof.Machine
end

section
/-!
PROOFS, family 40_frame_codec.md: the shape of a frame (R130 to R133), and the two ends of FRAME.RAW and of the ten FRAME.<op>
commands (R135 to R146).
-/
namespace Sys2Proof.Machine

/-! ## The length of a frame (R130, R131) -/

theorem dvd_frameLength (n : Nat) : 250 ∣ frameLength n := Dvd.intro _ rfl

theorem frameLength_le (n : Nat) : frameLength n ≤ n + 249 := by
  rw [frameLength_eq]
  omega

theorem frameLength_le_of_dvd {n m : Nat} (hm : 250 ∣ m) (h : n ≤ m) : frameLength n ≤ m := by
  rw [frameLength_eq]
  omega

theorem frameLength_of_dvd {n : Nat} (h : 250 ∣ n) : frameLength n = n :=
  Nat.le_antisymm (frameLength_le_of_dvd h le_rfl) (le_frameLength n)

/-! ## The bytes of a frame (O5, O6, O7) -/

/-- A frame is its input followed by pad, with the number of pad bytes in the lengths of the parts (R130). -/
theorem build_eq (op pl : List Byte) (pad : Byte) :
    build op pl pad
      = op ++ pl ++ List.replicate (frameLength (op.length + pl.length) - (op.length + pl.length)) pad := by
  rw [build, List.length_append]

theorem take_build (op pl : List Byte) (pad : Byte) : (build op pl pad).take (op.length + pl.length) = op ++ pl :=
  List.take_left' List.length_append

theorem drop_build (op pl : List Byte) (pad : Byte) :
    (build op pl pad).drop (op.length + pl.length)
      = List.replicate (frameLength (op.length + pl.length) - (op.length + pl.length)) pad := by
  rw [build_eq, List.drop_left' List.length_append]

/-- Every byte of a frame beyond its input is pad (R131). -/
theorem getElem?_build_of_le {op pl : List Byte} {pad : Byte} {k : Nat} (hk : op.length + pl.length ≤ k)
    (hlt : k < (build op pl pad).length) : (build op pl pad)[k]? = some pad := by
  rw [length_build] at hlt
  rw [build_eq, List.getElem?_append_right (by rwa [List.length_append]), List.length_append,
    List.getElem?_replicate_of_lt (by omega)]

/-- Settles O5: the length is `frameLength`, a multiple of 250 that no smaller fitting multiple undercuts. -/
theorem buildLengthIsSmallestMultiple : Obligations.BuildLengthIsSmallestMultiple := by
  intro op pl pad
  refine ⟨?_, ?_, fun m hm hle => ?_, fun k => getElem?_build_of_le⟩ <;> rw [length_build]
  · exact dvd_frameLength _
  · exact le_frameLength _
  · exact frameLength_le_of_dvd hm hle

/-- Settles O6: the frame splits after its input, and its length exceeds the input's by less than a block. -/
theorem buildKeepsItsInput : Obligations.BuildKeepsItsInput := by
  intro op pl pad
  refine ⟨take_build op pl pad, fun b hb => ?_, ?_⟩
  · rw [drop_build] at hb
    exact List.eq_of_mem_replicate hb
  · rw [length_build]
    exact Nat.sub_le_iff_le_add'.mpr (frameLength_le _)

/-- Settles O7: an input that fills its blocks leaves no room for pad, and nothing fills no block. -/
theorem buildCornerCases : Obligations.BuildCornerCases := by
  intro op pl pad
  refine ⟨fun hdvd => ?_, rfl, ?_⟩
  · rw [build_eq, frameLength_of_dvd hdvd, Nat.sub_self, List.replicate_zero, List.append_nil]
  · simp only [build_eq, frameLength_eq, List.append_nil, List.length_nil, Nat.add_zero]

/-! ## The checks of the frame commands (R135, R136) -/

section Results

variable {c : Config} {l : Latch} {src : Memory} {pad : Byte}

/-- A frame that fits DST and whose parts read is built (R135, R136). -/
theorem frameResult_of_fits {n : Nat} {op pl : List Byte} (hdst : inRange l.ops.dstAddr.toNat (frameLength n) c.dstSize)
    (hpl : src.readBytes l.ops.plAddr.toNat l.ops.plLen.toNat = some pl) :
    frameResult c l src pad n (some op) = .ok (build op pl pad) 0 (frameLength n - n) := by
  simp only [frameResult, if_neg (not_not.mpr hdst), hpl]

/-- A frame that does not fit DST is not built, whatever its parts (R228). -/
theorem frameResult_of_overflow {n : Nat} {op : Option (List Byte)}
    (hdst : c.dstSize.toNat < l.ops.dstAddr.toNat + 250 * ((n + 249) / 250)) :
    frameResult c l src pad n op = .err .dstOverflow := by
  rw [← frameLength_eq] at hdst
  simp only [frameResult, if_pos (Nat.not_le.mpr hdst)]

/-- FRAME.RAW with either of its ranges outside SRC (R227). -/
theorem frameRawResult_of_not_inRange
    (h : ¬ (inRange l.ops.srcAddr.toNat l.ops.srcLen.toNat c.srcSize
      ∧ inRange l.ops.plAddr.toNat l.ops.plLen.toNat c.srcSize)) :
    frameRawResult pad c l src = .err .srcRange := by
  by_cases hop : inRange l.ops.srcAddr.toNat l.ops.srcLen.toNat c.srcSize
  · have hpl : ¬ inRange l.ops.plAddr.toNat l.ops.plLen.toNat c.srcSize := fun hpl => h ⟨hop, hpl⟩
    rw [frameRawResult, if_neg (not_not.mpr hop), if_pos hpl]
  · rw [frameRawResult, if_pos hop]

/-- FRAME.<op> with an entry that is not loaded (R225). -/
theorem frameOpResult_of_not_valid {i : Fin 10} (hvalid : (l.opt[i]).valid = false) :
    frameOpResult i pad c l src = .err .opcodeUnset := by
  simp only [frameOpResult, if_pos hvalid]

/-- FRAME.<op> with its payload outside SRC (R227). -/
theorem frameOpResult_of_not_inRange {i : Fin 10} (hvalid : (l.opt[i]).valid = true)
    (hpl : ¬ inRange l.ops.plAddr.toNat l.ops.plLen.toNat c.srcSize) :
    frameOpResult i pad c l src = .err .srcRange := by
  simp only [frameOpResult, if_neg (ne_false_of_eq_true hvalid), if_pos hpl]

end Results

/-! ## The frame commands complete (O16, O18) -/

/-- The end of a frame command without error, for a frame of `n` bytes of input (R231): what both families of frame
commands leave behind. -/
theorem commit_build {op pl : List Byte} {n : Nat} (pad : Byte) (s : State) (hlen : op.length + pl.length = n) :
    commit (.ok (build op pl pad) 0 (frameLength n - n)) s
      = .next { s with dst := s.dst.writeBytes s.latch.ops.dstAddr.toNat
                         (op ++ pl ++ List.replicate (frameLength n - n) pad)
                       outLen := BitVec.ofNat 32 (frameLength n), sizeField := 0#32
                       auxCount := BitVec.ofNat 32 (frameLength n - n)
                       status := { s.status with done := true, busy := false } } := by
  subst hlen
  rw [commit, commitOk, length_build, build_eq]
  rfl

/-- Settles O16: both parts read, so the frame is built and committed. -/
theorem frameRawCompletes : Obligations.FrameRawCompletes := by
  intro pad s op pl o n T hopRange hplRange hdst hopLen hop hplLen hpl
  have hopRead : s.src.readBytes o.srcAddr.toNat o.srcLen.toNat = some op := hopLen ▸ Memory.readBytes_of_read hop
  have hplRead : s.src.readBytes o.plAddr.toNat o.plLen.toNat = some pl := hplLen ▸ Memory.readBytes_of_read hpl
  have hT : frameLength n = T := frameLength_eq n
  rw [← hT] at hdst ⊢
  rw [exec_eq_commit, execute, frameRawResult_of_inRange hopRange hplRange, hopRead, frameResult_of_fits hdst hplRead,
    commit_build pad s (by rw [hopLen, hplLen])]

/-- Settles O18: the opcode is `OpcodeBytes` of the entry, whose written bytes are those of the table. -/
theorem frameOpCompletes : Obligations.FrameOpCompletes := by
  intro p hp pad s pl o e n T hvalid hplRange hdst hplLen hpl
  have hplRead : s.src.readBytes o.plAddr.toNat o.plLen.toNat = some pl := hplLen ▸ Memory.readBytes_of_read hpl
  have hT : frameLength n = T := frameLength_eq n
  rw [← hT] at hdst ⊢
  refine ⟨s.latch.opt.opcodeBytes p.2, length_opcodeBytes _ _, fun j hj hwritten => ?_, ?_⟩
  · rw [getElem?_opcodeBytes _ _ j hj, OptByte.value_of_written hwritten]
  · rw [exec_frameCommand hp, frameOpResult_of_inRange hvalid hplRange, frameResult_of_fits hdst hplRead,
      commit_build pad s (by rw [length_opcodeBytes, hplLen])]

/-! ## The frame commands end with an error (O17, O19) -/

/-- Settles O17: the range checks come first, and the check of DST is the last. -/
theorem frameRawErrors : Obligations.FrameRawErrors := by
  intro pad s o T srcOk
  refine ⟨fun hsrc => ?_, fun ⟨hop, hpl⟩ hdst => ?_⟩
  · rw [exec_eq_commit, execute, frameRawResult_of_not_inRange hsrc, commit]
  · rw [exec_eq_commit, execute, frameRawResult_of_inRange hop hpl, frameResult_of_overflow hdst, commit]

/-- Settles O19: the three checks in their order, for all ten commands at once. -/
theorem frameOpErrors : Obligations.FrameOpErrors := by
  intro p hp pad s o e T srcOk
  rw [exec_frameCommand hp]
  refine ⟨fun hvalid => ?_, fun hvalid hsrc => ?_, fun hvalid hsrc hdst => ?_⟩
  · rw [frameOpResult_of_not_valid hvalid, commit]
  · rw [frameOpResult_of_not_inRange hvalid hsrc, commit]
  · rw [frameOpResult_of_inRange hvalid hsrc, frameResult_of_overflow hdst, commit]

end Sys2Proof.Machine
end

section
/-!
PROOFS, family 41_image_encoder.md: the separators of a stream (R172, R186), where the pixels and the fields of the encoded image
stand (R170 to R178, R185, R187), and the two ends of ENC.FULL and ENC.UPDATE (R174, R184).
-/
namespace Sys2Proof.Machine

/-! ## A list joined from its runs -/

section Runs

variable {α : Type} {r : Nat}

/-- The induction behind every fact about a list joined from its runs of `r`: a list of one run at most stands alone, and a
longer one is a whole run, a separator, and the rest joined. -/
theorem join_chunks_induction {sep : List α} {motive : List α → List α → Prop} (hr : 0 < r)
    (short : ∀ s, s.length ≤ r → motive s s)
    (long : ∀ run rest joined, run.length = r → rest ≠ [] → motive rest joined →
      motive (run ++ rest) (run ++ sep ++ joined))
    (s : List α) : motive s (join sep (chunks s r)) := by
  induction hn : s.length using Nat.strong_induction_on generalizing s with
  | _ n ih =>
    subst hn
    by_cases h : s.length ≤ r
    · rw [join_chunks_of_length_le sep hr h]
      exact short s h
    · have hlt : r < s.length := Nat.lt_of_not_le h
      have hrest : (s.drop r).length = s.length - r := List.length_drop
      have hlong := long (s.take r) (s.drop r) (join sep (chunks (s.drop r) r)) (List.length_take_of_le hlt.le)
        (List.ne_nil_of_length_pos (by omega)) (ih _ (by omega) (s.drop r) rfl)
      rwa [List.take_append_drop, ← join_chunks_of_length_gt sep hr hlt] at hlong

/-- Joining a whole run and a rest that is not empty. -/
theorem join_chunks_append {run rest : List α} (sep : List α) (hr : 0 < r) (hrun : run.length = r) (hrest : rest ≠ []) :
    join sep (chunks (run ++ rest) r) = run ++ sep ++ join sep (chunks rest r) := by
  have hpos := List.length_pos_of_ne_nil hrest
  rw [join_chunks_of_length_gt sep hr (by rw [List.length_append]; omega), List.take_left' hrun, List.drop_left' hrun]

/-- Where the single separators stand in a list joined from its runs, and which element stands at each other place. -/
theorem getElem?_join_chunks (x : α) (hr : 0 < r) (s : List α) :
    ∀ i < (join [x] (chunks s r)).length,
      (join [x] (chunks s r))[i]? = if i % (r + 1) = r then some x else s[i - i / (r + 1)]? := by
  induction s using join_chunks_induction (sep := [x]) hr with
  | short s hs =>
    intro i hi
    rw [Nat.mod_eq_of_lt (by omega), if_neg (by omega), Nat.div_eq_of_lt (by omega), Nat.sub_zero]
  | long run rest joined hrun hrest ih =>
    intro i hi
    rcases Nat.lt_trichotomy i r with hlt | rfl | hgt
    · rw [Nat.mod_eq_of_lt (by omega), if_neg (by omega), Nat.div_eq_of_lt (by omega), Nat.sub_zero, List.append_assoc,
        List.getElem?_append_left (by omega), List.getElem?_append_left (by omega)]
    · rw [Nat.mod_eq_of_lt (by omega), if_pos rfl, List.append_assoc, List.getElem?_append_right (by omega), hrun,
        Nat.sub_self]
      rfl
    · obtain ⟨j, rfl⟩ : ∃ j, i = j + (r + 1) := ⟨i - (r + 1), by omega⟩
      have hhead : (run ++ [x]).length = r + 1 := by rw [List.length_append, hrun]; rfl
      rw [List.length_append, hhead] at hi
      have hplace : j + (r + 1) - (j / (r + 1) + 1) - run.length = j - j / (r + 1) := by omega
      rw [List.getElem?_append_right (by omega), hhead, Nat.add_sub_cancel, ih j (by omega), Nat.add_mod_right,
        Nat.add_div_right j (show 0 < r + 1 by omega),
        List.getElem?_append_right (by have := Nat.div_le_self j (r + 1); omega), hplace]

/-- What is left of `s`, whose places are counted from `k` on, when every place `r` of `r + 1` is taken out: the reading of
R172's "removing the separators". -/
def withoutSeparators (r : Nat) (s : List α) (k : Nat) : List α :=
  ((s.zipIdx k).filter fun p => p.2 % (r + 1) != r).map Prod.fst

theorem withoutSeparators_append (s t : List α) (k : Nat) :
    withoutSeparators r (s ++ t) k = withoutSeparators r s k ++ withoutSeparators r t (k + s.length) := by
  simp only [withoutSeparators, List.zipIdx_append, List.filter_append, List.map_append]

/-- A run of `r` at most that begins where the count begins anew holds no separator. -/
theorem withoutSeparators_run {s : List α} {k : Nat} (hk : r + 1 ∣ k) (hs : s.length ≤ r) : withoutSeparators r s k = s := by
  have hkeep : (s.zipIdx k).filter (fun p => p.2 % (r + 1) != r) = s.zipIdx k := by
    refine List.filter_eq_self.mpr fun p hp => ?_
    have hlow := List.le_snd_of_mem_zipIdx hp
    have hhigh := List.snd_lt_of_mem_zipIdx hp
    obtain ⟨q, rfl⟩ := hk
    have hmod : p.2 % (r + 1) = p.2 - (r + 1) * q := by
      rw [← Nat.mod_eq_of_lt (show p.2 - (r + 1) * q < r + 1 by omega), Nat.sub_mul_mod hlow]
    rw [bne_iff_ne, hmod]
    omega
  rw [withoutSeparators, hkeep, List.zipIdx_map_fst]

theorem withoutSeparators_separator {k : Nat} (x : α) (hk : r + 1 ∣ k) : withoutSeparators r [x] (k + r) = [] := by
  obtain ⟨q, rfl⟩ := hk
  have hmod : ((r + 1) * q + r) % (r + 1) = r := by rw [Nat.mul_add_mod, Nat.mod_eq_of_lt r.lt_succ_self]
  simp [withoutSeparators, hmod]

/-- Taking the separators out of a list joined from its runs gives the list back. -/
theorem withoutSeparators_join_chunks (x : α) (hr : 0 < r) (s : List α) :
    ∀ k, r + 1 ∣ k → withoutSeparators r (join [x] (chunks s r)) k = s := by
  induction s using join_chunks_induction (sep := [x]) hr with
  | short s hs => exact fun k hk => withoutSeparators_run hk hs
  | long run rest joined hrun hrest ih =>
    intro k hk
    rw [List.append_assoc, withoutSeparators_append, withoutSeparators_run hk hrun.le, withoutSeparators_append, hrun,
      withoutSeparators_separator x hk, List.nil_append, List.length_singleton,
      ih _ (by rw [Nat.add_assoc]; exact (Nat.dvd_add_self_right).mpr hk)]

end Runs

/-! ## The full stream (O9) -/

theorem fullSeparators_eq (n : Nat) : fullSeparators n = (n + 248) / 249 - 1 := by
  unfold fullSeparators ceilDiv runLen
  omega

/-- R172: removing the separators of a full stream gives back its source. -/
theorem withoutSeparators_fullStream (px : List Byte) : withoutSeparators 249 (fullStream px) 0 = px :=
  withoutSeparators_join_chunks 0x00#8 (by decide) px 0 (dvd_zero _)

/-- Settles O9: the length is known, and the places and the removal are those of any list joined from its runs. -/
theorem fullStreamSeparators : Obligations.FullStreamSeparators := by
  intro px hpx
  have hpos := List.length_pos_of_ne_nil hpx
  have hlen : (fullStream px).length = px.length + ((px.length + 248) / 249 - 1) := by
    rw [length_fullStream, fullSeparators_eq]
  exact ⟨hlen, by omega, getElem?_join_chunks 0x00#8 (by decide) px, withoutSeparators_fullStream px⟩

/-! ## The pieces of a collected list -/

section Pieces

variable {α β : Type}

/-- A part that stands at `b` of what stands at `a` stands at `a + b`. -/
theorem isPrefix_drop_trans {s x y : List α} {a b : Nat} (hx : x <+: s.drop a) (hy : y <+: x.drop b) :
    y <+: s.drop (a + b) := by
  rw [← List.drop_drop]
  exact hy.trans (hx.drop b)

theorem take_of_isPrefix {s x : List α} {n : Nat} (h : x <+: s) (hn : x.length = n) : s.take n = x := by
  obtain ⟨rest, rfl⟩ := h
  exact List.take_left' hn

/-- The part `x` that follows `head` stands at the end of `head`. -/
theorem isPrefix_drop_append {head x rest : List α} {a : Nat} (h : head.length = a) :
    x <+: (head ++ x ++ rest).drop a := by
  rw [List.append_assoc, List.drop_left' h]
  exact ⟨rest, rfl⟩

theorem getElem?_of_isPrefix_drop {s x : List α} {a j : Nat} (h : x <+: s.drop a) (hj : j < x.length) :
    s[a + j]? = x[j]? := by
  obtain ⟨rest, hrest⟩ := h
  rw [← List.getElem?_drop, ← hrest, List.getElem?_append_left hj]

theorem collect_succ_eq_some {f : Nat → Option (List α)} {n : Nat} {out : List α} (h : collect f (n + 1) = some out) :
    ∃ o x, collect f n = some o ∧ f n = some x ∧ out = o ++ x := by
  rw [collect] at h
  split at h
  · cases h
  · rename_i o ho
    split at h
    · cases h
    · rename_i x hx
      exact ⟨o, x, ho, hx, (Option.some.inj h).symm⟩

/-- Piece `i` of a list collected from pieces of `k` elements stands at `i k`. -/
theorem piece_of_collect {f : Nat → Option (List α)} {k n i : Nat} {out : List α}
    (hf : ∀ i x, f i = some x → x.length = k) (h : collect f n = some out) (hi : i < n) :
    ∃ x, f i = some x ∧ x <+: out.drop (i * k) := by
  induction n generalizing out with
  | zero => omega
  | succ n ih =>
    obtain ⟨o, x, ho, hx, rfl⟩ := collect_succ_eq_some h
    rcases Nat.lt_succ_iff_lt_or_eq.mp hi with hlt | rfl
    · obtain ⟨y, hy, hstands⟩ := ih ho hlt
      exact ⟨y, hy, hstands.trans (List.IsPrefix.drop ⟨x, rfl⟩ _)⟩
    · exact ⟨x, hx, by rw [List.drop_left' (length_collect hf ho)]⟩

theorem collectList_cons_eq_some {f : β → Option (List α)} {y : β} {ys : List β} {out : List α}
    (h : collectList f (y :: ys) = some out) : ∃ x o, f y = some x ∧ collectList f ys = some o ∧ out = x ++ o := by
  rw [collectList] at h
  split at h
  · cases h
  · rename_i x hx
    split at h
    · cases h
    · rename_i o ho
      exact ⟨x, o, hx, ho, (Option.some.inj h).symm⟩

/-- The piece of element `j` of a list whose pieces have `k` elements stands at `j k`. -/
theorem piece_of_collectList {f : β → Option (List α)} {k j : Nat} {xs : List β} {out : List α}
    (hf : ∀ x y, f x = some y → y.length = k) (h : collectList f xs = some out) (hj : j < xs.length) :
    ∃ x, f xs[j] = some x ∧ x <+: out.drop (j * k) := by
  induction xs generalizing out j with
  | nil => cases hj
  | cons y ys ih =>
    obtain ⟨x, o, hx, ho, rfl⟩ := collectList_cons_eq_some h
    cases j with
    | zero => exact ⟨x, hx, by rw [Nat.zero_mul]; exact ⟨o, rfl⟩⟩
    | succ j =>
      obtain ⟨z, hz, hstands⟩ := ih ho (Nat.lt_of_succ_lt_succ hj)
      refine ⟨z, hz, ?_⟩
      rw [Nat.succ_mul, Nat.add_comm, ← List.drop_drop, List.drop_left' (hf y x hx)]
      exact hstands

theorem collect_congr {f g : Nat → Option (List α)} {n : Nat} (h : ∀ i < n, f i = g i) : collect f n = collect g n := by
  induction n with
  | zero => rfl
  | succ n ih => simp only [collect, ih fun i hi => h i (hi.trans n.lt_succ_self), h n n.lt_succ_self]

theorem collectList_congr {f g : β → Option (List α)} {xs : List β} (h : ∀ x ∈ xs, f x = g x) :
    collectList f xs = collectList g xs := by
  induction xs with
  | nil => rfl
  | cons x xs ih =>
    simp only [collectList, h x List.mem_cons_self, ih fun y hy => h y (List.mem_cons_of_mem x hy)]

/-- A list is collected when each of its pieces is there. -/
theorem exists_collect {f : Nat → Option (List α)} {n : Nat} (h : ∀ i < n, ∃ x, f i = some x) :
    ∃ out, collect f n = some out := by
  induction n with
  | zero => exact ⟨[], rfl⟩
  | succ n ih =>
    obtain ⟨o, ho⟩ := ih fun i hi => h i (hi.trans n.lt_succ_self)
    obtain ⟨x, hx⟩ := h n n.lt_succ_self
    exact ⟨o ++ x, by simp only [collect, ho, hx]⟩

theorem exists_collectList {f : β → Option (List α)} {xs : List β} (h : ∀ x ∈ xs, ∃ y, f x = some y) :
    ∃ out, collectList f xs = some out := by
  induction xs with
  | nil => exact ⟨[], rfl⟩
  | cons x xs ih =>
    obtain ⟨y, hy⟩ := h x List.mem_cons_self
    obtain ⟨o, ho⟩ := ih fun z hz => h z (List.mem_cons_of_mem x hz)
    exact ⟨y ++ o, by simp only [collectList, hy, ho]⟩

end Pieces

/-! ## The normalised buffer (O10, O11) -/

section Buffer

variable {l : Latch} {src : Memory} {px : List Byte}

theorem normalizedPixel_of_four (hC : l.channelCount = 4) (k : Nat) :
    normalizedPixel l src k = src.readBytes (l.ops.srcAddr.toNat + 4 * k) 4 := by
  rw [normalizedPixel, if_pos hC]

/-- A normalised 3-channel pixel is its three bytes and ALPHA_OPAQUE (R170). -/
theorem normalizedPixel_of_three (hC : l.channelCount = 3) {k : Nat} {x : List Byte} (h : normalizedPixel l src k = some x) :
    ∃ rgb, src.readBytes (l.ops.srcAddr.toNat + 3 * k) 3 = some rgb ∧ x = rgb ++ [0xFF#8] := by
  rw [normalizedPixel, if_neg (by omega)] at h
  split at h
  · cases h
  · rename_i rgb hrgb
    exact ⟨rgb, hrgb, (Option.some.inj h).symm⟩

/-- Byte `j` of normalised pixel `k` stands at `4 k + j` of the normalised buffer (R170). -/
theorem getElem?_normalize4 (h : normalize4 l src = some px) {k : Nat} (hk : k < l.width * l.height) :
    ∃ x, normalizedPixel l src k = some x ∧ ∀ j < 4, px[4 * k + j]? = x[j]? := by
  obtain ⟨x, hx, hstands⟩ := piece_of_collect (fun _ _ => length_normalizedPixel) h hk
  rw [Nat.mul_comm] at hstands
  exact ⟨x, hx, fun j hj => getElem?_of_isPrefix_drop hstands (by rwa [length_normalizedPixel hx])⟩

end Buffer

/-- Settles O10: each pixel is read and completed on its own, and the separators come out of any full stream. -/
theorem threeChannelPixelsGainOpaqueAlpha : Obligations.ThreeChannelPixelsGainOpaqueAlpha := by
  intro l src px hC h
  refine ⟨fun k hk => ?_, withoutSeparators_fullStream px⟩
  obtain ⟨x, hx, hbytes⟩ := getElem?_normalize4 h hk
  obtain ⟨rgb, hrgb, rfl⟩ := normalizedPixel_of_three hC hx
  have hlen : rgb.length = 3 := Memory.length_readBytes hrgb
  refine ⟨?_, fun j hj => ?_⟩
  · rw [hbytes 3 (by decide), ← hlen, List.getElem?_concat_length]
  · rw [hbytes j (by omega), List.getElem?_append_left (by omega), Memory.read_of_readBytes hrgb hj]

/-- Settles O11: byte `i` of the buffer is byte `i mod 4` of pixel `i / 4`. -/
theorem fourChannelPixelsPassThrough : Obligations.FourChannelPixelsPassThrough := by
  intro l src px hC h
  refine ⟨length_normalize4 h, fun i hi => ?_⟩
  have hmod : i % 4 < 4 := Nat.mod_lt i (by decide)
  obtain ⟨x, hx, hbytes⟩ := getElem?_normalize4 h (Nat.div_lt_of_lt_mul (by rwa [← Nat.mul_assoc]) : i / 4 < _)
  rw [normalizedPixel_of_four hC] at hx
  rw [← Nat.div_add_mod i 4, hbytes _ hmod, ← Nat.add_assoc, Memory.read_of_readBytes hx hmod]

/-! ## The update text (O12, O26) -/

section UpdateText

variable {c : Config} {l : Latch} {src : Memory} {h w : Nat} {t : Text}

theorem channelText_eq_some {k : Nat} (ht : channelText l src h w k = some t) :
    ∃ b : Byte, pixel l src h w k = some b ∧ t = hexN 2 b.toNat := by
  rw [channelText] at ht
  split at ht
  · cases ht
  · rename_i b hb
    exact ⟨b, hb, (Option.some.inj ht).symm⟩

theorem length_channelText {k : Nat} (ht : channelText l src h w k = some t) : t.length = 2 := by
  obtain ⟨b, -, rfl⟩ := channelText_eq_some ht
  exact length_hexN 2 _

theorem length_pixelText (ht : pixelText c l src h w = some t) : t.length = 6 := by
  rw [length_collectList (fun _ _ => length_channelText) ht, length_channels]

/-- A row is its offset field, its width field and its pixels (R175 to R177). -/
theorem rowText_eq_some (ht : rowText c l src h = some t) :
    ∃ px, collect (pixelText c l src h) l.width = some px
      ∧ t = hexN 6 ((l.ops.updX.toNat + h) * 800 + l.ops.updY.toNat) ++ hexN 4 l.width ++ px := by
  rw [rowText] at ht
  split at ht
  · cases ht
  · rename_i px hpx
    exact ⟨px, hpx, (Option.some.inj ht).symm⟩

/-- Row `h` stands at `h (10 + 6 W)` of the update text (R178). -/
theorem row_of_updateText (ht : updateText c l src = some t) (hh : h < l.height) :
    ∃ row, rowText c l src h = some row ∧ row <+: t.drop (h * (10 + 6 * l.width)) :=
  piece_of_collect (fun _ _ => length_rowText) ht hh

/-- Field `j` of pixel `w` stands at `10 + 6 w + 2 j` of its row, and is that of the channel UPD_CH_ORDER puts there (R177). -/
theorem channel_of_rowText {j : Nat} (ht : rowText c l src h = some t) (hw : w < l.width) (hj : j < 3) :
    ∃ k b, c.chOrder.channels[j]? = some k ∧ pixel l src h w k = some b
      ∧ hexN 2 b.toNat <+: t.drop (10 + 6 * w + 2 * j) := by
  obtain ⟨px, hpx, rfl⟩ := rowText_eq_some ht
  obtain ⟨x, hx, hstands⟩ := piece_of_collect (fun _ _ => length_pixelText) hpx hw
  have hj' : j < c.chOrder.channels.length := by rwa [length_channels]
  obtain ⟨y, hy, hstands'⟩ := piece_of_collectList (fun _ _ => length_channelText) hx hj'
  obtain ⟨b, hb, rfl⟩ := channelText_eq_some hy
  refine ⟨_, b, List.getElem?_eq_getElem hj', hb, ?_⟩
  rw [Nat.mul_comm 6 w, Nat.mul_comm 2 j, Nat.add_assoc, ← List.drop_drop, List.drop_left' (by simp)]
  exact isPrefix_drop_trans hstands hstands'

end UpdateText

/-- Settles O12: the rows stand one after another, and in each row its two fields and then its pixels. -/
theorem updateTextLayout : Obligations.UpdateTextLayout := by
  intro c l src t ht h hh
  obtain ⟨row, hrow, hstands⟩ := row_of_updateText ht hh
  obtain ⟨px, -, hparts⟩ := rowText_eq_some hrow
  refine ⟨take_of_isPrefix ?_ (length_hexN 6 _), take_of_isPrefix ?_ (length_hexN 4 _), fun w hw j hj => ?_⟩
  · rw [hparts, List.append_assoc] at hstands
    exact List.IsPrefix.trans ⟨_, rfl⟩ hstands
  · refine isPrefix_drop_trans hstands ?_
    rw [hparts]
    exact isPrefix_drop_append (length_hexN 6 _)
  · obtain ⟨k, b, hk, hb, hfield⟩ := channel_of_rowText hrow hw hj
    refine ⟨k, b, hk, hb, take_of_isPrefix ?_ (length_hexN 2 _)⟩
    simpa only [Nat.add_assoc] using isPrefix_drop_trans hstands hfield

theorem lt_three_of_mem_channels {o : ChOrder} {k : Nat} (hk : k ∈ o.channels) : k < 3 := by
  rw [(channels_perm o).mem_iff] at hk
  simp only [List.mem_cons, List.not_mem_nil, or_false] at hk
  omega

/-- Settles O26: the bytes meet the text in the fields of the channels UPD_CH_ORDER names, and all three of them are below 3. -/
theorem updateTextIgnoresOtherBytes : Obligations.UpdateTextIgnoresOtherBytes := by
  intro c l src src' hagree
  have hchannel : ∀ h < l.height, ∀ w < l.width, ∀ k ∈ c.chOrder.channels,
      channelText l src h w k = channelText l src' h w k := fun h hh w hw k hk => by
    simp only [channelText, hagree h hh w hw k (lt_three_of_mem_channels hk)]
  refine collect_congr fun h hh => ?_
  have hpixels : collect (pixelText c l src h) l.width = collect (pixelText c l src' h) l.width :=
    collect_congr fun w hw => collectList_congr (hchannel h hh w hw)
  simp only [rowText, hpixels]

/-! ## The wire form of the update text (O13, O14) -/

/-- Decoding a text of even length and what follows it (00_scope.md R23). -/
theorem unhex_append {n : Nat} {s : Text} (t : Text) (hs : s.length = 2 * n) : unhex (s ++ t) = unhex s ++ unhex t := by
  induction n generalizing s with
  | zero =>
    obtain rfl : s = [] := List.length_eq_zero_iff.mp hs
    rfl
  | succ n ih =>
    match s, hs with
    | a :: b :: s, hs =>
      have hlen : s.length = 2 * n := by
        simp only [List.length_cons] at hs
        omega
      simp only [List.cons_append, unhex, ih hlen]

/-- A text joined from runs of `2 r` digits decodes to its bytes joined from runs of `r`: a separator of two digits is one null
byte. -/
theorem unhex_join_chunks {r : Nat} (hr : 0 < r) (t : Text) :
    ∀ n, t.length = 2 * n → unhex (join [0, 0] (chunks t (2 * r))) = join [0x00#8] (chunks (unhex t) r) := by
  induction t using join_chunks_induction (sep := ([0, 0] : Text)) (show 0 < 2 * r by omega) with
  | short s hs =>
    intro n hn
    rw [join_chunks_of_length_le _ hr (by rw [length_unhex n hn]; omega)]
  | long run rest joined hrun hrest ih =>
    intro n hn
    rw [List.length_append, hrun] at hn
    have hpos := List.length_pos_of_ne_nil hrest
    have hlen : rest.length = 2 * (n - r) := by omega
    have hrest' : unhex rest ≠ [] := List.ne_nil_of_length_pos (by rw [length_unhex _ hlen]; omega)
    rw [unhex_append rest hrun, join_chunks_append _ hr (length_unhex r hrun) hrest', ← ih _ hlen, List.append_assoc,
      List.append_assoc, unhex_append _ hrun]
    rfl

/-- The separators of a text of even length, seen in its bytes (R186). -/
theorem unhex_separateText {n : Nat} {t : Text} (ht : t.length = 2 * n) :
    unhex (separateText t)
      = if (unhex t).length > 250 then join [0x00#8] (chunks (unhex t) 249) else unhex t := by
  rw [separateText, apply_ite unhex, length_unhex n ht]
  refine if_congr ?_ (unhex_join_chunks (r := 249) (by decide) t n ht) rfl
  unfold txtThreshold
  omega

/-- When UPD_WIRE is DECODED the wire carries the bytes the digits spell (R182). -/
theorem wireBytes_of_decoded {c : Config} (h : c.updWire = .decoded) (t : Text) : wireBytes c t = unhex t := by
  simp only [wireBytes, h]

theorem updateTextLength_eq (l : Latch) : updateTextLength l = 2 * (l.height * (5 + 3 * l.width)) := by
  unfold updateTextLength
  ring

/-- Settles O13: every part of the final text has even length, so decoding goes part by part. -/
theorem decodedUpdateIsByteSeparated : Obligations.DecodedUpdateIsByteSeparated := by
  intro c l src t hc ht
  have hlen : t.length = 2 * (l.height * (5 + 3 * l.width)) := by rw [length_updateText ht, updateTextLength_eq]
  have hsep : (separateText t).length = 2 * (l.height * (5 + 3 * l.width) + textSeparators t.length) := by
    rw [length_separateText, Nat.mul_add, ← hlen]
  refine ⟨?_, ?_⟩
  · rw [length_unhex _ hlen, updateTextLength_eq, Nat.mul_div_cancel_left _ Nat.two_pos]
  · rw [wireBytes_of_decoded hc, finalText, unhex_append trailer hsep, unhex_separateText hlen]
    rfl

theorem textSeparators_eq (n : Nat) : textSeparators n = if n > 500 then (n + 497) / 498 - 1 else 0 := by
  unfold textSeparators ceilDiv txtThreshold txtRun
  split <;> omega

theorem updateLength_of_decoded {c : Config} (h : c.updWire = .decoded) (l : Latch) :
    updateLength c l = updateTextLength l / 2 + textSeparators (updateTextLength l) + 2 := by
  simp only [updateLength, h]

theorem updateLength_of_ascii {c : Config} (h : c.updWire = .ascii) (l : Latch) :
    updateLength c l = updateTextLength l + 2 * textSeparators (updateTextLength l) + 4 := by
  simp only [updateLength, h]

/-- The size field counts the decoded bytes of the rows and of the trailer (R179, R185). -/
theorem updateSize_eq (l : Latch) : updateSize l = updateTextLength l / 2 + 2 := by
  rw [updateTextLength_eq, Nat.mul_div_cancel_left _ Nat.two_pos, updateSize]

/-- A decoded row has 5 + 3W bytes (R185). -/
theorem length_unhex_rowText {c : Config} {l : Latch} {src : Memory} {h : Nat} {row : Text}
    (hrow : rowText c l src h = some row) : (unhex row).length = 5 + 3 * l.width := by
  refine length_unhex _ ?_
  rw [length_rowText hrow]
  ring

/-- Settles O14: the lengths of the text, of its separators and of its wire form, in the numbers of the image. -/
theorem updateLengths : Obligations.UpdateLengths := by
  intro c l src t ht Lt sepT
  have hLt : t.length = Lt := length_updateText ht
  have hsep : textSeparators Lt = sepT := textSeparators_eq Lt
  have hwire : (wireBytes c (finalText t)).length = updateLength c l := length_wireBytes (length_updateText ht)
  refine ⟨hLt, fun h row => length_unhex_rowText, ?_, fun hc => ⟨?_, ?_⟩, fun hc => ?_⟩
  · rw [finalText, List.length_append, length_separateText, hLt, hsep]
    rfl
  · rw [hwire, updateLength_of_decoded hc, ← hsep]
    rfl
  · rw [updateSize_eq, Nat.add_right_comm]
    rfl
  · rw [hwire, updateLength_of_ascii hc, ← hsep]
    rfl

/-! ## The checks of the image commands (R174, R184) -/

section Results

variable {c : Config} {l : Latch} {src : Memory}

/-- An image without pixels (R223). -/
theorem imageError_of_empty (h : ¬ (l.width ≠ 0 ∧ l.height ≠ 0)) : imageError l = some .badDimension := by
  rw [imageError, if_pos (by tauto)]

/-- An image whose pixels have other than 3 or 4 bytes (R224). -/
theorem imageError_of_channels (hdim : l.width ≠ 0 ∧ l.height ≠ 0) (h : ¬ (l.channelCount = 3 ∨ l.channelCount = 4)) :
    imageError l = some .badChannels := by
  rw [imageError, if_neg (by tauto), if_pos (by tauto)]

theorem encFullResult_of_imageError {code : ErrCode} (h : imageError l = some code) :
    encFullResult c l src = .err code := by
  simp only [encFullResult, h]

/-- ENC.FULL with its buffer outside SRC (R227). -/
theorem encFullResult_of_not_inRange (himage : imageError l = none)
    (hsrc : ¬ inRange l.ops.srcAddr.toNat l.bufferLength c.srcSize) : encFullResult c l src = .err .srcRange := by
  simp only [encFullResult, himage, if_pos hsrc]

/-- ENC.FULL with an output that does not fit DST (R228). -/
theorem encFullResult_of_overflow (himage : imageError l = none)
    (hsrc : inRange l.ops.srcAddr.toNat l.bufferLength c.srcSize)
    (hdst : c.dstSize.toNat < l.ops.dstAddr.toNat
      + (4 * l.width * l.height + fullSeparators (4 * l.width * l.height))) :
    encFullResult c l src = .err .dstOverflow := by
  simp only [encFullResult, himage, if_neg (not_not.mpr hsrc), if_pos (Nat.not_le.mpr hdst)]

/-- ENC.FULL past its checks on a buffer that reads (R174). -/
theorem encFullResult_of_fits {px : List Byte} (himage : imageError l = none)
    (hsrc : inRange l.ops.srcAddr.toNat l.bufferLength c.srcSize)
    (hdst : inRange l.ops.dstAddr.toNat (4 * l.width * l.height + fullSeparators (4 * l.width * l.height)) c.dstSize)
    (hpx : normalize4 l src = some px) :
    encFullResult c l src = .ok (fullStream px) 0 (fullSeparators (4 * l.width * l.height)) := by
  simp only [encFullResult, himage, if_neg (not_not.mpr hsrc), if_neg (not_not.mpr hdst), hpx]

theorem encUpdateResult_of_imageError {code : ErrCode} (h : imageError l = some code) :
    encUpdateResult c l src = .err code := by
  simp only [encUpdateResult, h]

/-- ENC.UPDATE with a number that its field does not hold (R183, R226). -/
theorem encUpdateResult_of_not_fieldsFit (himage : imageError l = none) (hfields : ¬ fieldsFit c l) :
    encUpdateResult c l src = .err .fieldOverflow := by
  simp only [encUpdateResult, himage, if_pos hfields]

/-- ENC.UPDATE with its buffer outside SRC (R227). -/
theorem encUpdateResult_of_not_inRange (himage : imageError l = none) (hfields : fieldsFit c l)
    (hsrc : ¬ inRange l.ops.srcAddr.toNat l.bufferLength c.srcSize) : encUpdateResult c l src = .err .srcRange := by
  simp only [encUpdateResult, himage, if_neg (not_not.mpr hfields), if_pos hsrc]

/-- ENC.UPDATE with an output that does not fit DST (R228). -/
theorem encUpdateResult_of_overflow (himage : imageError l = none) (hfields : fieldsFit c l)
    (hsrc : inRange l.ops.srcAddr.toNat l.bufferLength c.srcSize)
    (hdst : c.dstSize.toNat < l.ops.dstAddr.toNat + updateLength c l) : encUpdateResult c l src = .err .dstOverflow := by
  simp only [encUpdateResult, himage, if_neg (not_not.mpr hfields), if_neg (not_not.mpr hsrc),
    if_pos (Nat.not_le.mpr hdst)]

/-- ENC.UPDATE past its checks on an image that has an update text (R184). -/
theorem encUpdateResult_of_fits {t : Text} (himage : imageError l = none) (hfields : fieldsFit c l)
    (hsrc : inRange l.ops.srcAddr.toNat l.bufferLength c.srcSize)
    (hdst : inRange l.ops.dstAddr.toNat (updateLength c l) c.dstSize) (ht : updateText c l src = some t) :
    encUpdateResult c l src
      = .ok (wireBytes c (finalText t)) (updateSize l) (textSeparators (updateTextLength l)) := by
  simp only [encUpdateResult, himage, if_neg (not_not.mpr hfields), if_neg (not_not.mpr hsrc),
    if_neg (not_not.mpr hdst), ht]

/-- The output length of ENC.UPDATE, both wire forms in one formula (R184). -/
theorem updateLength_eq {sep : Nat} (hsep : textSeparators (updateTextLength l) = sep) :
    updateLength c l
      = if c.updWire = .decoded then updateTextLength l / 2 + sep + 2 else updateTextLength l + 2 * sep + 4 := by
  subst hsep
  cases h : c.updWire with
  | decoded => rw [updateLength_of_decoded h, if_pos rfl]
  | ascii => rw [updateLength_of_ascii h, if_neg (by decide)]

/-! ## What a written image leaves readable (20_memory.md R87) -/

theorem Memory.exists_readBytes {m : Memory} {a n : Nat} (h : m.Written a n) : ∃ bs, m.readBytes a n = some bs := by
  cases hread : m.readBytes a n with
  | some bs => exact ⟨bs, rfl⟩
  | none =>
    obtain ⟨i, hi, hnone⟩ := Memory.readBytes_eq_none hread
    exact absurd hnone (h i hi)

/-- Pixel `k` of a written buffer reads (20_memory.md R89). -/
theorem exists_readBytes_pixel {k : Nat} (hk : k < l.width * l.height)
    (h : src.Written l.ops.srcAddr.toNat (l.width * l.height * l.channelCount)) :
    ∃ bs, src.readBytes (l.ops.srcAddr.toNat + l.channelCount * k) l.channelCount = some bs := by
  refine Memory.exists_readBytes fun j hj => ?_
  have hplace : l.channelCount * k + j < l.width * l.height * l.channelCount :=
    calc l.channelCount * k + j
        < l.channelCount * (k + 1) := by rw [Nat.mul_succ]; omega
      _ ≤ l.channelCount * (l.width * l.height) := Nat.mul_le_mul_left _ hk
      _ = l.width * l.height * l.channelCount := Nat.mul_comm _ _
  rw [Nat.add_assoc]
  exact h _ hplace

theorem exists_normalizedPixel {k : Nat} (hch : l.channelCount = 3 ∨ l.channelCount = 4) (hk : k < l.width * l.height)
    (h : src.Written l.ops.srcAddr.toNat (l.width * l.height * l.channelCount)) :
    ∃ x, normalizedPixel l src k = some x := by
  obtain ⟨bs, hbs⟩ := exists_readBytes_pixel hk h
  rcases hch with hC | hC <;> rw [hC] at hbs
  · exact ⟨bs ++ [alphaOpaque], by rw [normalizedPixel, if_neg (by omega), hbs]⟩
  · exact ⟨bs, by rw [normalizedPixel_of_four hC, hbs]⟩

/-- A written buffer is normalised (R170). -/
theorem exists_normalize4 (hch : l.channelCount = 3 ∨ l.channelCount = 4)
    (h : src.Written l.ops.srcAddr.toNat (l.width * l.height * l.channelCount)) : ∃ px, normalize4 l src = some px :=
  exists_collect fun _ hk => exists_normalizedPixel hch hk h

theorem exists_channelText {h w k : Nat} (hwritten : pixel l src h w k ≠ none) :
    ∃ t, channelText l src h w k = some t := by
  obtain ⟨b, hb⟩ := Option.ne_none_iff_exists'.mp hwritten
  exact ⟨_, by rw [channelText, hb]⟩

theorem exists_rowText {h : Nat} (hwritten : ∀ w < l.width, ∀ k < 3, pixel l src h w k ≠ none) :
    ∃ t, rowText c l src h = some t := by
  obtain ⟨px, hpx⟩ : ∃ px, collect (pixelText c l src h) l.width = some px :=
    exists_collect fun w hw => exists_collectList fun k hk =>
      exists_channelText (hwritten w hw k (lt_three_of_mem_channels hk))
  exact ⟨_, by rw [rowText, hpx]⟩

/-- An image whose three channels are written has an update text (R178). -/
theorem exists_updateText (h : l.ChannelsWritten src) : ∃ t, updateText c l src = some t :=
  exists_collect fun r hr => exists_rowText (h r hr)

end Results

/-! ## The image commands complete (O20, O22) -/

/-- The end of a command without error, for an output of `n` bytes (60_exceptions.md R231). -/
theorem commit_ok {out : List Byte} {n : Nat} (size aux : Nat) (s : State) (hlen : out.length = n) :
    commit (.ok out size aux) s
      = .next { s with dst := s.dst.writeBytes s.latch.ops.dstAddr.toNat out
                       outLen := BitVec.ofNat 32 n, sizeField := BitVec.ofNat 32 size
                       auxCount := BitVec.ofNat 32 aux
                       status := { s.status with done := true, busy := false } } := by
  subst hlen
  rfl

/-- Settles O20: a written buffer is normalised, so past the checks its full stream is committed. -/
theorem encFullCompletes : Obligations.EncFullCompletes := by
  intro s l N sep hw hh hch hsrc hdst hwritten
  obtain ⟨px, hpx⟩ := exists_normalize4 hch hwritten
  have hsep : fullSeparators N = sep := fullSeparators_eq N
  have hlen : (fullStream px).length = N + sep := by rw [length_fullStream, length_normalize4 hpx, hsep]
  rw [← hsep] at hdst hlen ⊢
  refine ⟨px, hpx, ?_⟩
  rw [exec_eq_commit, execute, encFullResult_of_fits (imageError_eq_none hw hh hch) hsrc hdst hpx, commit_ok 0 _ s hlen]

/-- Settles O22: an image whose channels are written has an update text, so past the checks its wire form is committed. -/
theorem encUpdateCompletes : Obligations.EncUpdateCompletes := by
  intro s l Lt size sepT T hw hh hch hwidth hoffset hsize hsrc hdst hwritten
  obtain ⟨t, ht⟩ := exists_updateText (c := s.cfg) hwritten
  have hsep : textSeparators Lt = sepT := textSeparators_eq Lt
  have hT : updateLength s.cfg l = T := updateLength_eq hsep
  have hlen : (wireBytes s.cfg (finalText t)).length = T := by rw [length_wireBytes (length_updateText ht), hT]
  rw [← hT] at hdst
  rw [← hsep]
  refine ⟨t, ht, ?_⟩
  rw [exec_eq_commit, execute,
    encUpdateResult_of_fits (imageError_eq_none hw hh hch) ⟨hwidth, hoffset, hsize⟩ hsrc hdst ht, commit_ok _ _ s hlen]
  rfl

/-! ## The image commands end with an error (O21, O23) -/

/-- Settles O21: the four checks in their order. -/
theorem encFullErrors : Obligations.EncFullErrors := by
  intro s l N dimOk chOk srcOk
  rw [exec_eq_commit, execute]
  refine ⟨fun hdim => ?_, fun hdim hch => ?_, fun ⟨hw, hh⟩ hch hsrc => ?_, fun ⟨hw, hh⟩ hch hsrc hdst => ?_⟩
  · rw [encFullResult_of_imageError (imageError_of_empty hdim), commit]
  · rw [encFullResult_of_imageError (imageError_of_channels hdim hch), commit]
  · rw [encFullResult_of_not_inRange (imageError_eq_none hw hh hch) hsrc, commit]
  · rw [← fullSeparators_eq] at hdst
    rw [encFullResult_of_overflow (imageError_eq_none hw hh hch) hsrc hdst, commit]

/-- Settles O23: the five checks in their order. -/
theorem encUpdateErrors : Obligations.EncUpdateErrors := by
  intro s l Lt sepT T dimOk chOk fieldsOk srcOk
  have hsep : textSeparators Lt = sepT := textSeparators_eq Lt
  have hT : updateLength s.cfg l = T := updateLength_eq hsep
  rw [exec_eq_commit, execute]
  refine ⟨fun hdim => ?_, fun hdim hch => ?_, fun ⟨hw, hh⟩ hch hfields => ?_, fun ⟨hw, hh⟩ hch hfields hsrc => ?_,
    fun ⟨hw, hh⟩ hch hfields hsrc hdst => ?_⟩
  · rw [encUpdateResult_of_imageError (imageError_of_empty hdim), commit]
  · rw [encUpdateResult_of_imageError (imageError_of_channels hdim hch), commit]
  · rw [encUpdateResult_of_not_fieldsFit (imageError_eq_none hw hh hch) hfields, commit]
  · rw [encUpdateResult_of_not_inRange (imageError_eq_none hw hh hch) hfields hsrc, commit]
  · rw [← hT] at hdst
    rw [encUpdateResult_of_overflow (imageError_eq_none hw hh hch) hfields hsrc hdst, commit]

end Sys2Proof.Machine
end

section
/-!
PROOFS, family 60_exceptions.md: the two ends of a command (R230, R231), what they write, and what they leave as it was.
-/
namespace Sys2Proof.Machine

/-! ## The ends of a command -/

/-- Settles O15. -/
theorem commitErrWrites : Obligations.CommitErrWrites := by
  intro code s
  rfl

/-- A command that answers a next state is at one of its two ends (R230, R231). -/
theorem exec_next_cases {i : Instr} {s t : State} (h : exec i s = .next t) :
    (∃ out size aux, execute i s.cfg s.latch s.src = .ok out size aux ∧ t = commitOk out size aux s)
      ∨ ∃ code, execute i s.cfg s.latch s.src = .err code ∧ t = commitErr code s := by
  rw [exec_eq_commit] at h
  exact commit_next_cases h

/-- Settles O28: the end without error keeps ERR, which was 0, so the command ended in CommitErr. -/
theorem errorsArePrecise : Obligations.ErrorsArePrecise := by
  intro i s t hclear h herr
  rcases exec_next_cases h with ⟨out, size, aux, -, rfl⟩ | ⟨code, -, rfl⟩
  · simp [hclear] at herr
  · exact ⟨rfl, rfl⟩

/-- Settles O30: while a command runs DONE and ERR are 0 and ERRCODE is 0x00, so each end leaves one flag set, and an error
leaves a code other than 0x00. -/
theorem completionSetsDoneOrErr : Obligations.CompletionSetsDoneOrErr := by
  intro s t hsound hbusy h
  obtain ⟨-, hrunning, -, -⟩ := hsound
  obtain ⟨hdone, herr, hcode⟩ := hrunning hbusy
  rw [complete_eq_commit] at h
  rcases commit_next_cases h with ⟨out, size, aux, -, rfl⟩ | ⟨code, hr, rfl⟩
  · simp [herr, hcode]
  · simp [hdone, latchedResult_err_ne_noError hr]

/-! ## What a command changes (O27) -/

/-- Neither end of a command touches more than DST, the result registers, and DONE, ERR, ERRCODE and BUSY, which it clears. -/
theorem exec_keeps {i : Instr} {s t : State} (h : exec i s = .next t) :
    t.cfg = s.cfg ∧ t.irqEn = s.irqEn ∧ t.ops = s.ops ∧ t.opt = s.opt ∧ t.latch = s.latch ∧ t.src = s.src
      ∧ t.host = s.host ∧ t.response = s.response ∧ t.delay = s.delay ∧ t.draws = s.draws
      ∧ t.status.hzd = s.status.hzd ∧ t.status.busy = false := by
  rcases exec_next_cases h with ⟨out, size, aux, -, rfl⟩ | ⟨code, -, rfl⟩ <;> simp

/-- What a command writes to DST is OUT_LEN bytes at the latched DST_ADDR, which lie in DST; after an error it is no bytes,
wherever DST_ADDR points. -/
theorem exists_exec_output {i : Instr} {s t : State} (h : exec i s = .next t) : ∃ out : List Byte,
    t.outLen.toNat = out.length ∧ t.dst = s.dst.writeBytes s.latch.ops.dstAddr.toNat out
      ∧ s.latch.ops.dstAddr.toNat + out.length ≤ max s.cfg.dstSize.toNat s.latch.ops.dstAddr.toNat := by
  rcases exec_next_cases h with ⟨out, size, aux, hr, rfl⟩ | ⟨code, -, rfl⟩
  · obtain ⟨hlen, -⟩ := resultRegistersAreExact i s _ out size aux hr h
    exact ⟨out, hlen, rfl, (execute_ok_fits hr).trans (le_max_left _ _)⟩
  · exact ⟨[], rfl, rfl, le_max_right _ _⟩

/-- Settles O27: the three clauses about DST are the laws of writing the output, which may be empty. -/
theorem commandFrame : Obligations.CommandFrame := by
  intro i s t h
  obtain ⟨hcfg, hirq, hops, hopt, hlatch, hsrc, hhost, hresponse, hdelay, hdraws, hhzd, hbusy⟩ := exec_keeps h
  obtain ⟨out, hlen, hdst, hfits⟩ := exists_exec_output h
  rw [hlen, hdst]
  refine ⟨hcfg, hirq, hops, hopt, hlatch, hsrc, hhost, hresponse, hdelay, hdraws, hhzd, hbusy,
    fun a ha => Memory.read_writeBytes_outside ha, fun k hk => ?_, hfits⟩
  rw [Memory.read_writeBytes_inside hk]
  exact Option.some_ne_none _

end Sys2Proof.Machine
end

section
/-!
PROOFS, family 70_reset_and_hazards.md: the two resets (R280 to R282), the accesses that a running command drops (R285 to
R287), and the polling host (R291).
-/
namespace Sys2Proof.Machine

/-! ## A CTRL write with SOFT_RESET (R281, R282) -/

theorem hostAccess_regWrite_ctrl (v : Word) (s : State) :
    hostAccess (.regWrite 0x000#12 .w32 v) s = .next ((writeCtrl v s).respond none) :=
  hostAccess_regWrite_offset .ctrl v s

theorem writeCtrl_of_reset {v : Word} (hreset : v.getLsbD 1 = true) (s : State) : writeCtrl v s = softReset s := by
  rw [writeCtrl, if_pos hreset]

theorem softReset_of_busy {s : State} (hbusy : s.status.busy = true) :
    softReset s = clearRegisters (abortRunning s) := by
  rw [softReset, if_pos hbusy]

theorem softReset_of_idle {s : State} (hidle : s.status.busy = false) : softReset s = clearRegisters s := by
  rw [softReset, if_neg (ne_true_of_eq_false hidle)]

/-- Settles O37: the abandoned command and its COMPLETE step take the same result; only a result with an output has bytes to
leave behind. -/
theorem softResetWhileBusyWritesAPrefix : Obligations.SoftResetWhileBusyWritesAPrefix := by
  intro v s hreset hbusy
  rw [hostAccess_regWrite_ctrl, writeCtrl_of_reset hreset, softReset_of_busy hbusy, complete_eq_commit]
  rcases abortRunning_cases s with ⟨out, size, aux, k, hr, hk, habort⟩ | ⟨hnoOutput, habort⟩ <;> rw [habort]
  · refine ⟨k, s.draws + 1, out, rfl, hk, ?_⟩
    rw [hr]
    exact ⟨rfl, rfl⟩
  · refine ⟨0, s.draws, [], rfl, le_rfl, ?_⟩
    cases hr : latchedResult s.cfg s.latch s.src with
    | ok out size aux => exact absurd hr (hnoOutput out size aux)
    | err code => exact ⟨rfl, rfl⟩
    | fault f => exact ⟨rfl, rfl⟩

/-- Settles O36: an idle block has no command to abandon. -/
theorem softResetWhileIdle : Obligations.SoftResetWhileIdle := by
  intro v s hreset hidle
  rw [hostAccess_regWrite_ctrl, writeCtrl_of_reset hreset, softReset_of_idle hidle]
  rfl

/-! ## Accesses that a running command drops (R285 to R287) -/

/-- Settles O34: the second case of a CTRL write. -/
theorem startWhileBusyIsDropped : Obligations.StartWhileBusyIsDropped := by
  intro v s hstart hreset hbusy
  have hwrite : writeCtrl v s = (s.withIrqEn (v.getLsbD 2)).setHzd := by
    rw [writeCtrl, if_neg (ne_true_of_eq_false hreset), if_pos hstart, if_pos hbusy]
  rw [hostAccess_regWrite_ctrl, hwrite]
  rfl

/-- Settles O50: the write looks at BUSY before it stores, the read only at the written mark. -/
theorem srcAccessWhileBusy : Obligations.SrcAccessWhileBusy := by
  intro a b s hbusy ha
  constructor
  · rw [hostAccess, hostSrcWrite, if_pos ha, if_pos hbusy]
    rfl
  · rw [hostAccess, hostSrcRead, if_pos ha]
    cases s.src.read a <;> rfl

/-- Settles O51: the read looks at BUSY before it looks at the written mark. -/
theorem dstAccessWhileBusy : Obligations.DstAccessWhileBusy := by
  intro a b s hbusy ha
  constructor
  · rw [hostAccess, hostDstWrite, if_pos ha, if_pos hbusy]
    rfl
  · rw [hostAccess, hostDstRead, if_pos ha, if_pos hbusy]
    rfl

/-! ## Power-on reset (R280) -/

theorem step_of_not_completeDue {s : State} (h : completeDue s = false) : step s = hostStep s := by
  rw [step, if_neg (ne_true_of_eq_false h)]

theorem readReg_reset_operand {r : Reg} (hr : r ∈ operandRegisters) : readReg State.reset r = 0#32 := by
  simp only [operandRegisters, List.mem_cons, List.not_mem_nil, or_false] at hr
  rcases hr with rfl | rfl | rfl | rfl | rfl | rfl | rfl | rfl | rfl | rfl | rfl <;> rfl

/-- No entry of the opcode table is loaded after power-on reset, and no byte of one is written. -/
theorem OptTable.reset_unloaded (i : Fin 10) :
    (OptTable.reset[i]).len = 0 ∧ (OptTable.reset[i]).valid = false
      ∧ ∀ j : Fin 16, ((OptTable.reset[i]).bytes[j]).written = false := by
  simp [OptTable.reset]

/-- Settles O56: the fields of the reset state, and the host's step with a power-on reset at the head of its requests. (The name
`powerOnReset` is the model's function.) -/
theorem powerOnReset_state : Obligations.PowerOnReset := by
  refine ⟨⟨rfl, rfl, fun _ => readReg_reset_operand, rfl, rfl, rfl, OptTable.reset_unloaded, fun _ => ⟨rfl, rfl⟩, rfl,
    rfl⟩, fun s rest hhost hdue => ?_⟩
  rw [step_of_not_completeDue hdue, hostStep, hhost]
  rfl

/-- Settles O57: the sizes that log entry 1 names are legal, and the reset memories are empty. -/
theorem invariantAtReset : Obligations.InvariantAtReset :=
  ⟨rfl, .nil, List.forall_mem_nil _, .nil, List.forall_mem_nil _, .reset, .reset, .reset, Nat.zero_le _⟩

/-! ## A host that polls (R291; 30_encoding.md R112) -/

/-- A poll before COMPLETE is due stays pending, returns STATUS and takes one from the delay. -/
theorem step_of_poll {s : State} {rest : List HostReq} (hbusy : s.status.busy = true) (hhost : s.host = .wait :: rest)
    (hdelay : s.delay ≠ 0) :
    step s = .next { s with delay := s.delay - 1, response := some s.status.word } := by
  have hdue : completeDue s = false := by simp [completeDue, hdelay, hhost]
  calc step s = hostStep s := step_of_not_completeDue hdue
    _ = .next (hostPoll rest (hostTurn (.wait :: rest) s)) := by rw [hostStep, hhost]
    _ = _ := by
      rw [hostPoll_eq, hostTurn_status, if_pos hbusy, ← hhost]
      rfl

theorem sysRun_one (s : State) : sysRun 1 s = step s := by
  have unrolled : ∀ (M : Host.Core) (t : M.State), M.run 1 t = M.step t := by
    intro M t
    simp only [Host.Core.run]
    cases M.step t <;> rfl
  exact unrolled core s

/-- Settles O59, by induction on the delay: each poll takes one from it and leaves the command as it was. -/
theorem pollingReachesCompletion : Obligations.PollingReachesCompletion := by
  intro s rest hbusy hhost
  induction hd : s.delay generalizing s with
  | zero =>
    have hdue : completeDue s = true := completeDue_iff.mpr ⟨hbusy, .inl hd⟩
    rw [sysRun_one, step_of_completeDue hdue, if_pos rfl, ← hd]
  | succ d ih =>
    have hstep := step_of_poll hbusy hhost (by omega)
    rw [hd, Nat.add_sub_cancel] at hstep
    have hrun := ih { s with delay := d, response := some s.status.word } hbusy hhost rfl
    rw [ite_self] at hrun
    rw [sysRun_succ_of_next hstep, hrun, if_neg d.succ_ne_zero]

end Sys2Proof.Machine
end
